-- ==== Sys2Proof/Word.lean ====
section
/-! DEFINITION. The widths the block moves data in (`spec/00_scope.md` R6, R8, R9). All values are unsigned. -/

namespace Sys2Proof

/-- The word of one exchange, and of the registers `LEN`, `OFF`, `WCR`, `TXD`, `CRCACC` (R6, R22 to R25, R35). -/
abbrev Word := BitVec 32

/-- One byte of the Buffer or of the save RAM (R50, R66). -/
abbrev Byte := BitVec 8

/-- The Buffer's 16-bit view and the flash bus width (R53, R64). -/
abbrev Halfword := BitVec 16

/-- The 24-bit parameter of a command word (R80). -/
abbrev Param := BitVec 24

end Sys2Proof
end

