-- ==== Sys2Proof/Config.lean ====
section
/-! DEFINITION. The configuration record `CFG` with its reference values `CFG0` (`spec/00_scope.md` R6, R7), and the
values the spec leaves to the environment, each an opaque constant without a body: nothing in Lean can evaluate one. -/

namespace Sys2Proof

/-- Size of the Buffer in bytes, halfwords and words (R6). -/
def bufBytes : Nat := 131072
def bufHalfwords : Nat := 65536
def bufWords : Nat := 32768

/-- The outcome of an abstract save transaction (`spec/43_save_commands.md` R186). -/
inductive SaveOutcome where
  | ok
  | error (status : Word)
  deriving DecidableEq, Repr, Inhabited

/-- The save device a transaction is with (R186). -/
inductive SaveKind where
  | flash
  | eeprom
  deriving DecidableEq, Repr

/-- The configuration record `CFG` of R7. Every rule is written over these names. `idExpected` is OPEN in the spec
(D19): `none` leaves it to the free value `Config.idExpected`. -/
structure Cfg where
  nopWord : Word
  idleWord : Word
  busyWord : Word
  tagUpload : Byte
  tagDownload : Byte
  tagRead : Byte
  tagCrc32 : Byte
  tagReadSram : Byte
  tagWriteSram : Byte
  tagReadFlash : Byte
  tagWriteFlash : Byte
  tagReadEeprom : Byte
  tagWriteEeprom : Byte
  tagDump : Byte
  tagId : Byte
  tagUnlock : Byte
  tagErase : Byte
  tagProgram : Byte
  romBase : Word
  sramBase : Word
  fcReadId : Halfword
  fcClearLock : Halfword
  fcErase : Halfword
  fcWriteBuffer : Halfword
  fcConfirm : Halfword
  srReady : Halfword
  srOk : Halfword
  wbHalfwords : Nat
  idExpected : Option Word
  deriving DecidableEq, Repr

/-- The reference configuration `CFG0` (R7, R83, R84). Its values are the spec's own choice (D2 to D4, D10 to D12, D15).
DESIGN CHOICE (log 1): it is carried in `State.cfg`, so that statements over all states hold for every configuration. -/
def Cfg.cfg0 : Cfg where
  nopWord := 0x004E4F50
  idleWord := 0x49444C45
  busyWord := 0x42555359
  tagUpload := 0x01
  tagDownload := 0x02
  tagRead := 0x03
  tagCrc32 := 0x10
  tagReadSram := 0x20
  tagWriteSram := 0x21
  tagReadFlash := 0x22
  tagWriteFlash := 0x23
  tagReadEeprom := 0x24
  tagWriteEeprom := 0x25
  tagDump := 0x30
  tagId := 0x31
  tagUnlock := 0x32
  tagErase := 0x33
  tagProgram := 0x34
  romBase := 0x08000000
  sramBase := 0x0E000000
  fcReadId := 0x0090
  fcClearLock := 0x0060
  fcErase := 0x0020
  fcWriteBuffer := 0x00E8
  fcConfirm := 0x00D0
  srReady := 0x0080
  srOk := 0x0080
  wbHalfwords := 16
  idExpected := none

/-- `WORKER_TAGS` (`spec/30_encoding.md` R82). -/
def Cfg.workerTags (c : Cfg) : List Byte :=
  [c.tagCrc32, c.tagReadSram, c.tagWriteSram, c.tagReadFlash, c.tagWriteFlash, c.tagReadEeprom, c.tagWriteEeprom,
   c.tagDump, c.tagId, c.tagUnlock, c.tagErase, c.tagProgram]

/-- The fifteen tags (R84). -/
def Cfg.tags (c : Cfg) : List Byte :=
  c.tagUpload :: c.tagDownload :: c.tagRead :: c.workerTags

/-- The constraints every `CFG` must meet (R7): the tags pairwise distinct and none the top byte of `NOP_WORD`, the two
status sentinels different, `ROM_BASE` even, `SR_READY` one bit, `SR_OK` with that bit set, and the chunk size a divisor
of the Buffer's halfwords between 1 and 65536. -/
def Cfg.valid (c : Cfg) : Bool :=
  decide c.tags.Nodup &&
  !(c.tags.contains (c.nopWord.extractLsb' 24 8)) &&
  (c.idleWord != c.busyWord) &&
  (c.romBase.getLsbD 0 == false) &&
  (((List.range 16).filter fun i => c.srReady.getLsbD i).length == 1) &&
  ((c.srOk &&& c.srReady) != 0) &&
  decide (1 ≤ c.wbHalfwords) && decide (c.wbHalfwords ≤ bufHalfwords) && (bufHalfwords % c.wbHalfwords == 0)

/-! ### Free values. `draw(N)` of R12: nothing constrains them. The index is `State.draws`. -/

/-- What the cartridge answers to 16-bit read number `d` at an address (R64, R68, U9; log 3). -/
opaque Config.cartAnswer16 : Nat → Word → Halfword

/-- What the cartridge answers to 8-bit read number `d` at an address (R66, R68, U9; log 3). -/
opaque Config.cartAnswer8 : Nat → Word → Byte

/-- The outcome of a `SaveRead`, or `none` where it has not ended yet (R186, R225, U11; log 4). -/
opaque Config.saveReadOutcome : Nat → Option SaveOutcome

/-- Byte `i` that a `SaveRead` returns (R186, U11; log 4). -/
opaque Config.saveByte : Nat → Nat → Byte

/-- The outcome of a `SaveWrite`, or `none` where it has not ended yet (R186, R225, U11; log 4). -/
opaque Config.saveWriteOutcome : Nat → Option SaveOutcome

/-- `WCR` after a `Reset` (R250, U6; log 10). -/
opaque Config.resetWcr : Nat → Word

/-- `TXD` after a `Reset` (R250, U7; log 10). -/
opaque Config.resetTxd : Nat → Word

/-- Buffer byte `i` after a `Reset` (R250, U6; log 10). -/
opaque Config.resetByte : Nat → Nat → Byte

/-- The recognised chip code where the configuration gives none (R153, D19, U18; log 15). -/
opaque Config.idExpected : Word

end Sys2Proof
end

