-- ==== Sys2Proof/Syntax.lean ====
section
/-! DEFINITION. The instructions: one constructor per row of `spec/opcode_table.json`, and the five values of `STATE`,
which select how a word is read (`spec/10_state.md` R21, `spec/30_encoding.md` R80 to R90). -/

namespace Sys2Proof

/-- The state register's five values (R21). The spec gives them no encoding. -/
inductive FsmState where
  | idle
  | uploading
  | downloading
  | reading
  | workerBusy
  deriving DecidableEq, Repr

/-- One constructor per row of the opcode table. A command carries its 24-bit parameter (R80, R85 to R87); `read` keeps
the 24 bits it ignores (R88), so that no bit of its word is dropped. `invalid` carries the whole word (R89), the four
continuation steps the word received (R108 to R111), `unrecognisedWorker` the two fields of the latched command (R187). -/
inductive Instr where
  | nop
  | upload (count : Param)
  | download (count : Param)
  | read (ignored : Param)
  | crc32 (n : Param)
  | readSram (n : Param)
  | writeSram (n : Param)
  | readFlash (n : Param)
  | writeFlash (n : Param)
  | readEeprom (n : Param)
  | writeEeprom (n : Param)
  | dump (offset : Param)
  | id (offset : Param)
  | unlock (offset : Param)
  | erase (offset : Param)
  | program (offset : Param)
  | invalid (word : Word)
  | uploadingStep (data : Word)
  | downloadingStep (data : Word)
  | readingStep (data : Word)
  | workerBusyStep (data : Word)
  | unrecognisedWorker (cmd : Byte) (param : Param)
  deriving DecidableEq, Repr

/-- Where a word is read as an instruction: as the incoming word of an exchange in some `STATE` (R81, R100), or by the
sequencer from the latched command (R131). -/
inductive DecodeContext where
  | incoming (state : FsmState)
  | sequencer
  deriving DecidableEq, Repr

end Sys2Proof
end

