-- ==== Sys2Proof/WellFormed.lean ====
section
/-! DEFINITION. Which instruction terms stand for words: `invalid` only for a word that is no command (R82, R89),
`unrecognisedWorker` only for a tag the sequencer does not know (R131, R187). Every operand of the others is admitted
(R85 to R88, R108 to R111). -/

namespace Sys2Proof

/-- The word is none of the fifteen tagged commands and is not `NOP_WORD` (R82, R89). -/
def isInvalidWord (c : Cfg) (w : Word) : Bool :=
  !(c.tags.contains (w.extractLsb' 24 8)) && (w != c.nopWord)

/-- The tag is none of the twelve worker tags (R131, R187). -/
def isUnrecognisedTag (c : Cfg) (t : Byte) : Bool :=
  !(c.workerTags.contains t)

/-- The instruction stands for a word under the configuration. -/
def Instr.wellFormed (c : Cfg) : Instr → Bool
  | .nop => true
  | .upload _ => true
  | .download _ => true
  | .read _ => true
  | .crc32 _ => true
  | .readSram _ => true
  | .writeSram _ => true
  | .readFlash _ => true
  | .writeFlash _ => true
  | .readEeprom _ => true
  | .writeEeprom _ => true
  | .dump _ => true
  | .id _ => true
  | .unlock _ => true
  | .erase _ => true
  | .program _ => true
  | .invalid w => isInvalidWord c w
  | .uploadingStep _ => true
  | .downloadingStep _ => true
  | .readingStep _ => true
  | .workerBusyStep _ => true
  | .unrecognisedWorker t _ => isUnrecognisedTag c t

end Sys2Proof
end

