-- ==== Sys2Proof/Decode.lean ====
section
/-! DEFINITION. Decoding (`spec/30_encoding.md` R81, R82, R88, R89; `spec/41_worker_crc32.md` R131) and, after it, the
encoder (R80, R84, R91). -/

namespace Sys2Proof

/-- The tag field `w[31:24]` (R80). -/
def wordTag (w : Word) : Byte := w.extractLsb' 24 8

/-- The parameter field `w[23:0]` (R80). -/
def wordParam (w : Word) : Param := w.extractLsb' 0 24

/-- `SYMBOL|p`: the word `(TAG << 24) | p` (R80, R91). -/
def commandWord (tag : Byte) (p : Param) : Word := tag ++ p

/-- `Op(t)`: the operation of a worker tag, `none` for any other tag (R82 `WORKER_TAGS`, R131). -/
def workerOp (c : Cfg) (t : Byte) (p : Param) : Option Instr :=
  if t = c.tagCrc32 then some (.crc32 p)
  else if t = c.tagReadSram then some (.readSram p)
  else if t = c.tagWriteSram then some (.writeSram p)
  else if t = c.tagReadFlash then some (.readFlash p)
  else if t = c.tagWriteFlash then some (.writeFlash p)
  else if t = c.tagReadEeprom then some (.readEeprom p)
  else if t = c.tagWriteEeprom then some (.writeEeprom p)
  else if t = c.tagDump then some (.dump p)
  else if t = c.tagId then some (.id p)
  else if t = c.tagUnlock then some (.unlock p)
  else if t = c.tagErase then some (.erase p)
  else if t = c.tagProgram then some (.program p)
  else none

/-- `Decode(w)`, the reading of a word in `Idle` (R82), in the order of its tests: the tags, then `NOP_WORD`, then
INVALID. Total: every word gets one outcome. -/
def decodeIdle (c : Cfg) (w : Word) : Instr :=
  if wordTag w = c.tagUpload then .upload (wordParam w)
  else if wordTag w = c.tagDownload then .download (wordParam w)
  else if wordTag w = c.tagRead then .read (wordParam w)
  else
    match workerOp c (wordTag w) (wordParam w) with
    | some i => i
    | none => if w = c.nopWord then .nop else .invalid w

/-- The reading of an incoming word by `STATE` (R81, R100): a command only in `Idle`. -/
def decodeIncoming (c : Cfg) (st : FsmState) (w : Word) : Instr :=
  match st with
  | .idle => decodeIdle c w
  | .uploading => .uploadingStep w
  | .downloading => .downloadingStep w
  | .reading => .readingStep w
  | .workerBusy => .workerBusyStep w

/-- The sequencer's top-byte dispatch on the latched command (R131), its last arm included (R187). -/
def decodeWorker (c : Cfg) (cmd : Word) : Instr :=
  match workerOp c (wordTag cmd) (wordParam cmd) with
  | some i => i
  | none => .unrecognisedWorker (wordTag cmd) (wordParam cmd)

/-- The reading of a word in a given place. -/
def decodeAt (c : Cfg) : DecodeContext → Word → Instr
  | .incoming st, w => decodeIncoming c st w
  | .sequencer, w => decodeWorker c w

/-- Why a sequence of bytes is no instruction: an instruction is one 32-bit word (R80). -/
inductive DecodeError where
  | notOneWord (bytes : Nat)
  deriving DecidableEq, Repr

/-- The word of four bytes, the lowest address first, least significant byte first. DESIGN CHOICE (log 17): a command
word lies in no memory; this is the order in which the Buffer holds a word (R51). -/
def wordOfBytes (b0 b1 b2 b3 : Byte) : Word := b3 ++ b2 ++ b1 ++ b0

/-- The four bytes of a word in that order. -/
def bytesOfWord (w : Word) : List Byte :=
  [w.extractLsb' 0 8, w.extractLsb' 8 8, w.extractLsb' 16 8, w.extractLsb' 24 8]

/-- Decoding, total on any bytes: one word in the given place, every other length rejected by name. -/
def decodeBytes (c : Cfg) (ctx : DecodeContext) (bs : List Byte) : Except DecodeError Instr :=
  match bs with
  | [b0, b1, b2, b3] => .ok (decodeAt c ctx (wordOfBytes b0 b1 b2 b3))
  | [] => .error (.notOneWord 0)
  | [_] => .error (.notOneWord 1)
  | [_, _] => .error (.notOneWord 2)
  | [_, _, _] => .error (.notOneWord 3)
  | _ :: _ :: _ :: _ :: _ :: rest => .error (.notOneWord (5 + rest.length))

/-- The instruction the decoder reads in `Idle` under `CFG0` from the word `w` of the opcode table (log 17). -/
def decodeTableWord (nbits w : Nat) : Option Instr :=
  if nbits ≤ 32 ∧ w < 2 ^ 32 then
    match decodeBytes Cfg.cfg0 (.incoming .idle) (bytesOfWord (BitVec.ofNat 32 w)) with
    | .ok i => some i
    | .error _ => none
  else none

/-! ### The encoder -/

/-- The word of an instruction, from the tag table (R80, R83, R84, R91). -/
def encode (c : Cfg) : Instr → Word
  | .nop => c.nopWord
  | .upload p => commandWord c.tagUpload p
  | .download p => commandWord c.tagDownload p
  | .read p => commandWord c.tagRead p
  | .crc32 p => commandWord c.tagCrc32 p
  | .readSram p => commandWord c.tagReadSram p
  | .writeSram p => commandWord c.tagWriteSram p
  | .readFlash p => commandWord c.tagReadFlash p
  | .writeFlash p => commandWord c.tagWriteFlash p
  | .readEeprom p => commandWord c.tagReadEeprom p
  | .writeEeprom p => commandWord c.tagWriteEeprom p
  | .dump p => commandWord c.tagDump p
  | .id p => commandWord c.tagId p
  | .unlock p => commandWord c.tagUnlock p
  | .erase p => commandWord c.tagErase p
  | .program p => commandWord c.tagProgram p
  | .invalid w => w
  | .uploadingStep w => w
  | .downloadingStep w => w
  | .readingStep w => w
  | .workerBusyStep w => w
  | .unrecognisedWorker t p => commandWord t p

/-- The place in which an instruction's word is read as that instruction: a command in `Idle`, a continuation step in its
state, the unrecognised command by the sequencer (the opcode table's "state" column). -/
def decodeContext : Instr → DecodeContext
  | .uploadingStep _ => .incoming .uploading
  | .downloadingStep _ => .incoming .downloading
  | .readingStep _ => .incoming .reading
  | .workerBusyStep _ => .incoming .workerBusy
  | .unrecognisedWorker _ _ => .sequencer
  | .nop => .incoming .idle
  | .upload _ => .incoming .idle
  | .download _ => .incoming .idle
  | .read _ => .incoming .idle
  | .crc32 _ => .incoming .idle
  | .readSram _ => .incoming .idle
  | .writeSram _ => .incoming .idle
  | .readFlash _ => .incoming .idle
  | .writeFlash _ => .incoming .idle
  | .readEeprom _ => .incoming .idle
  | .writeEeprom _ => .incoming .idle
  | .dump _ => .incoming .idle
  | .id _ => .incoming .idle
  | .unlock _ => .incoming .idle
  | .erase _ => .incoming .idle
  | .program _ => .incoming .idle
  | .invalid _ => .incoming .idle

end Sys2Proof
end

