-- ==== Sys2Proof/Machine/State.lean ====
section
/-! DEFINITION. The state of the block as plain data (`spec/10_state.md` R20 to R37), the reasons a step can stop, and the
state right after reset. -/

namespace Sys2Proof.Machine

/-- The Buffer: the bytes that differ from what an unlisted address reads as, addresses strictly rising (R27, R50). -/
abbrev Memory := List Host.Cell

/-- The micro-steps of ID (`spec/42_flash_sequencer.md` R152). -/
inductive IdPos where
  | command
  | manufacturer
  | device
  deriving DecidableEq, Repr

/-- The micro-steps of UNLOCK and of ERASE (R154, R155): the first command word, the confirm word, the poll. -/
inductive LockPos where
  | setup
  | confirm
  | poll
  deriving DecidableEq, Repr

/-- The micro-steps of a chunk of PROGRAM (R157): the opening poll, the command, the count, the data words, the confirm
word, the closing poll with its verdict. -/
inductive ProgramPos where
  | ready
  | command
  | count
  | data
  | confirm
  | verdict
  deriving DecidableEq, Repr

/-- The micro-steps of a save read (`spec/43_save_commands.md` R182, R184). -/
inductive SaveReadPos where
  | transfer
  | copy
  deriving DecidableEq, Repr

/-- The micro-steps of a save write (R183, R185). -/
inductive SaveWritePos where
  | gather
  | transfer
  deriving DecidableEq, Repr

/-- The position of the sequencer in its operation's pseudocode (`spec/10_state.md` R32): the next micro-step
(`spec/41_worker_crc32.md` R133). The last two are the two writes of completion (R132), common to all operations; the result
waits in the local `result`. -/
inductive SeqPos where
  | crcByte
  | id (p : IdPos)
  | unlock (p : LockPos)
  | erase (p : LockPos)
  | program (p : ProgramPos)
  | dumpHalfword
  | readSramByte
  | writeSramByte
  | readFlash (p : SaveReadPos)
  | writeFlash (p : SaveWritePos)
  | readEeprom (p : SaveReadPos)
  | writeEeprom (p : SaveWritePos)
  | logUnrecognised
  | writeResult
  | release
  deriving DecidableEq, Repr

/-- The sequencer's locals (R33, R34), with the manufacturer code between the two reads of ID
(`spec/42_flash_sequencer.md` R152) and the bytes and outcome of a save transaction (`spec/43_save_commands.md` R182,
R183), and the result between the computation and its write (R132). The defaults stand where an operation writes the local before it reads it (log 12). -/
structure SeqLocals where
  a : Word := 0
  k : Nat := 0
  j : Nat := 0
  status : Halfword := 0
  n : Param := 0
  i : Nat := 0
  code : Halfword := 0
  bytes : List Byte := []
  outcome : SaveOutcome := .ok
  result : Word := 0
  deriving DecidableEq, Repr

/-- The sequencer's record `SEQ` (R32). -/
inductive Seq where
  | idle
  | running (cmd : Word) (pos : SeqPos) (locals : SeqLocals)
  deriving DecidableEq, Repr

/-- The three points at which the source logs (`spec/60_exceptions.md` R232). -/
inductive Diag where
  | invalidCommand (word : Word)
  | unrecognisedWorkerCommand (cmd : Word)
  | unsupportedChip (code : Word)
  deriving DecidableEq, Repr

/-- The events of the history (`spec/20_memory.md` R62 to R67, R78; `spec/43_save_commands.md` R186). -/
inductive Event where
  | exch (rx tx : Word)
  | r16 (a : Word) (v : Halfword)
  | w16 (a : Word) (v : Halfword)
  | r8 (a : Word) (v : Byte)
  | w8 (a : Word) (v : Byte)
  | saveRd (kind : SaveKind) (n : Param) (bytes : List Byte) (outcome : SaveOutcome)
  | saveWr (kind : SaveKind) (n : Param) (bytes : List Byte) (outcome : SaveOutcome)
  | diag (d : Diag)
  | reset
  deriving DecidableEq, Repr

/-- What moves next (`spec/00_scope.md` R14): the host makes an exchange with a word (R62), the sequencer is given its
turn (R130), or power raises the reset event (R250). DESIGN CHOICE (log 2). -/
inductive Input where
  | exchange (rx : Word)
  | sequencer
  | reset
  deriving DecidableEq, Repr

/-- An answer of the save device to a `SaveRead` (R186): a byte the list does not hold is a free value (log 4). -/
structure SaveReadAnswer where
  bytes : List Byte
  outcome : SaveOutcome
  deriving DecidableEq, Repr

/-- The state of the machine. The first eight fields are the spec's (R20, R35); `cfg` is its parameter record, which no
step writes (R7, R15; log 1); `history` records its events, newest first (R78; log 18). The next three are the model's own
account of a fault, which is no register of the block (`spec/00_scope.md` R12): the index at which the FSM and the
sequencer has stopped, `none` while it has not (`spec/92_eei_decisions.md` D7), and the faults raised in the run, newest
first, which nothing clears (R224; log 11). The rest are the model's own and stand for the environment (log 2, 3, 4, 9). -/
structure State where
  state : FsmState
  len : Word
  off : Word
  wcr : Word
  txd : Word
  buf : Memory
  seq : Seq
  crcacc : Word
  cfg : Cfg
  history : List Event
  fsmFault : Option Nat
  seqFault : Option Nat
  faults : List Nat
  inputs : List Input
  cart16 : List Halfword
  cart8 : List Byte
  saveReads : List (Option SaveReadAnswer)
  saveWrites : List (Option SaveOutcome)
  draws : Nat
  deriving DecidableEq, Repr

/-- The faults of the model: one, as in the spec's closed list (`spec/60_exceptions.md` R224). A fault is an outcome of a
step (`spec/00_scope.md` R12) and carries the state that the step leaves: what the step did before the access stands in it,
the faulting agent has stopped in it, and the other agent goes on from it (`spec/92_eei_decisions.md` D7,
`spec/93_implementation_defined.md` U1 to U3; log 11). -/
inductive Fault where
  /-- `BufferRange(index)`: raised by an operation of `Machine/Ops.lean` for a Buffer access whose index is past the end
  of its view (`spec/20_memory.md` R55), and again by an exchange with an FSM that has so stopped. Safe: the source leaves
  such an access undefined. -/
  | bufferRange (index : Nat) (after : State)
  deriving DecidableEq, Repr

/-- The state that a faulting step leaves. -/
def Fault.after : Fault → State
  | .bufferRange _ t => t

/-- The refusals of the model. -/
inductive Refusal where
  /-- An instruction whose meaning is not written yet, by its mnemonic: raised by an arm of exec only. Safe. -/
  | notModelled (mnemonic : String)
  /-- Raised by `completeOperation` where exec is asked for a worker instruction while the sequencer stands at a position
  of another operation. Safe: the sequencer's operation is the one of its own command (R131), so no run reaches it
  (log 14). -/
  | notAtThisOperation (pos : SeqPos)
  deriving DecidableEq, Repr

/-- What a meaning answers. -/
abbrev Result := Host.Outcome State Fault Refusal

/-- The machine right after reset (`spec/10_state.md` R37, `spec/70_reset_and_hazards.md` R250): `STATE`, `LEN`, `OFF` and
`SEQ` as the spec says. DESIGN CHOICE, the spec gives none: `WCR` 0 (log 5), `TXD` 0 (log 6), the Buffer all 0x00 (log 7),
`CRCACC` 0 (log 8). The configuration is `CFG0` (log 1), the environment has nothing in store (log 2, 3, 4, 9), the history
holds the reset event (log 18), and no fault has been raised (log 11). -/
def State.reset : State where
  state := .idle
  len := 0
  off := 0
  wcr := 0
  txd := 0
  buf := []
  seq := .idle
  crcacc := 0
  cfg := Cfg.cfg0
  history := [.reset]
  fsmFault := none
  seqFault := none
  faults := []
  inputs := []
  cart16 := []
  cart8 := []
  saveReads := []
  saveWrites := []
  draws := 0

end Sys2Proof.Machine
end

