-- ==== Sys2Proof/Machine/Flags.lean ====
section
/-! DEFINITION. The block has no flags and no condition codes (`spec/10_state.md` R29). What stands in their place are the
tests on the status value that the cartridge returns (`spec/42_flash_sequencer.md` R151, R159, R161). -/

namespace Sys2Proof.Machine

/-- The ready bit of a status value is set: what ends a poll (R151). -/
def statusReady (c : Cfg) (v : Halfword) : Bool := (v &&& c.srReady) != 0

/-- `ChunkFailed`: a chunk has failed if its closing status is not exactly `SR_OK` (R159, D16; log 16). -/
def chunkFailed (c : Cfg) (v : Halfword) : Bool := v != c.srOk

/-- The result form of a status: 16 bits, widened with zeros, nothing masked (R161). -/
def statusResult (v : Halfword) : Word := v.setWidth 32

/-- The chip is not the recognised one (R152, R153). Where the configuration gives no code it is a free value (log 15). -/
def chipUnsupported (c : Cfg) (code : Word) : Bool := code != c.idExpected.getD Config.idExpected

end Sys2Proof.Machine
end

