-- ==== Sys2Proof/Machine/Operands.lean ====
section
/-! DEFINITION. The operand forms of a command's 24-bit parameter (`spec/30_encoding.md` R85 to R87) and the cartridge
addresses made from them (`spec/20_memory.md` R69). All sums are modulo 2^32. -/

namespace Sys2Proof.Machine

/-- A word count: `LEN <- zext_32(param)` (R85). -/
def wordCount (p : Param) : Word := p.setWidth 32

/-- A byte length, counted from Buffer byte 0 (R86). -/
def byteLength (p : Param) : Nat := p.toNat

/-- A rom-offset: `A = ROM_BASE + zext_32(param) * 256` (R87, `spec/42_flash_sequencer.md` R150). -/
def flashAddress (c : Cfg) (p : Param) : Word := c.romBase + p.setWidth 32 * 256

/-- `A + 2*j`: the flash address of halfword `j` of a block (R157, R160). -/
def halfwordAddress (a : Word) (j : Nat) : Word := a + BitVec.ofNat 32 (2 * j)

/-- `Ak = A + k * WB_HALFWORDS * 2`: the start of chunk `k` (R157). -/
def chunkAddress (c : Cfg) (a : Word) (k : Nat) : Word := halfwordAddress a (k * c.wbHalfwords)

/-- `NCHUNK = BUF_HALFWORDS / WB_HALFWORDS` (R157). -/
def chunkCount (c : Cfg) : Nat := bufHalfwords / c.wbHalfwords

/-- `SRAM_BASE + i` (R69, `spec/43_save_commands.md` R180). -/
def sramAddress (c : Cfg) (i : Nat) : Word := c.sramBase + BitVec.ofNat 32 i

end Sys2Proof.Machine
end

