-- ==== Sys2Proof/Machine/Ops.lean ====
section
/-! DEFINITION. The named operations that every meaning is written over: the Buffer controller (`spec/20_memory.md` R50 to
R60), register writes, the exchange event and the reset event, the cartridge bus and save device primitives (R64 to R68,
`spec/43_save_commands.md` R186), and the sequencer's start, poll and completion (`spec/41_worker_crc32.md` R131, R132,
`spec/42_flash_sequencer.md` R151). -/

namespace Sys2Proof.Machine

/-! ### The Buffer as memory -/

/-- What a Buffer byte reads as that nothing has written since reset. DESIGN CHOICE (log 7): the spec gives no value. -/
def Memory.unwritten : Byte := 0

/-- The byte at an address. -/
def Memory.read : Memory → Nat → Byte
  | [], _ => Memory.unwritten
  | (a, b) :: m, i => if i = a then b else Memory.read m i

/-- Replace the byte at one address, keeping the canonical form (R52). -/
def Memory.write : Memory → Nat → Byte → Memory
  | [], i, v => if v = Memory.unwritten then [] else [(i, v)]
  | (a, b) :: m, i, v =>
    if i < a then (if v = Memory.unwritten then (a, b) :: m else (i, v) :: (a, b) :: m)
    else if i = a then (if v = Memory.unwritten then m else (a, v) :: m)
    else (a, b) :: Memory.write m i v

/-- The canonical form: addresses strictly rising and inside the Buffer (R50), no entry equal to what an unlisted address
reads as. -/
def Memory.wf : Memory → Bool
  | [] => true
  | (a, b) :: m => decide (a < bufBytes) && (b != Memory.unwritten) && m.all (fun c => decide (a < c.1)) && Memory.wf m

/-- The memory whose bytes below the Buffer's size are those of a function: used by the reset event only (R250). -/
def Memory.ofBytes (f : Nat → Byte) : Memory :=
  (List.range bufBytes).filterMap fun i => if f i = Memory.unwritten then none else some (i, f i)

/-- `Buf8[i]` (R52). -/
def buf8 (m : Memory) (i : Nat) : Byte := Memory.read m i

/-- `Buf16[i] = {Buf8[2i+1], Buf8[2i]}` (R51, R53). -/
def buf16 (m : Memory) (i : Nat) : Halfword := Memory.read m (2 * i + 1) ++ Memory.read m (2 * i)

/-- `Buf32[i] = {Buf8[4i+3], Buf8[4i+2], Buf8[4i+1], Buf8[4i]}` (R51, R54). -/
def buf32 (m : Memory) (i : Nat) : Word :=
  Memory.read m (4 * i + 3) ++ Memory.read m (4 * i + 2) ++ Memory.read m (4 * i + 1) ++ Memory.read m (4 * i)

/-- `Buf8[i] <- v` (R52). -/
def setBuf8 (m : Memory) (i : Nat) (v : Byte) : Memory := Memory.write m i v

/-- `Buf16[i] <- v`, as one access (R53). -/
def setBuf16 (m : Memory) (i : Nat) (v : Halfword) : Memory :=
  Memory.write (Memory.write m (2 * i) (v.extractLsb' 0 8)) (2 * i + 1) (v.extractLsb' 8 8)

/-- `Buf32[i] <- v`, as one access (R54). -/
def setBuf32 (m : Memory) (i : Nat) (v : Word) : Memory :=
  Memory.write
    (Memory.write
      (Memory.write (Memory.write m (4 * i) (v.extractLsb' 0 8)) (4 * i + 1) (v.extractLsb' 8 8))
      (4 * i + 2) (v.extractLsb' 16 8))
    (4 * i + 3) (v.extractLsb' 24 8)

/-- The first `n` bytes of the Buffer, byte 0 first. -/
def bufferBytes (m : Memory) (n : Nat) : List Byte := (List.range n).map (buf8 m)

/-! ### Register writes -/

/-- Load `TXD`: what the source calls "emit" (`spec/40_transfer_commands.md` R101). -/
def State.emit (s : State) (w : Word) : State := { s with txd := w }

/-- `STATE <- st` (R10, R112). -/
def State.goto (s : State) (st : FsmState) : State := { s with state := st }

/-- `WCR <- w` (R24). -/
def State.latch (s : State) (w : Word) : State := { s with wcr := w }

/-- Set the transfer context `LEN`, `OFF` (R22, R23). -/
def State.setTransfer (s : State) (len off : Word) : State := { s with len := len, off := off }

/-- Replace the Buffer's contents. -/
def State.setBuf (s : State) (m : Memory) : State := { s with buf := m }

/-- Load the CRC accumulator `CRCACC` (R35). -/
def State.setAcc (s : State) (w : Word) : State := { s with crcacc := w }

/-- Record one event, newest first (R78). -/
def State.record (s : State) (e : Event) : State := { s with history := e :: s.history }

/-- `SEQ <- SeqRunning(cmd, pos, locals)` (R32, R131). -/
def State.toPos (s : State) (cmd : Word) (pos : SeqPos) (l : SeqLocals) : State := { s with seq := .running cmd pos l }

/-- The operation is done with result `r`: its next micro-step writes it into `WCR` (R132). -/
def State.toResult (s : State) (cmd r : Word) (l : SeqLocals) : State := s.toPos cmd .writeResult { l with result := r }

/-- `STATE <- Idle; SEQ <- SeqIdle`: the last write of completion (R132). -/
def State.releaseSeq (s : State) : State := { s with state := .idle, seq := .idle }

/-- Take one entry off the environment's list of moves (log 2). -/
def State.withInputs (s : State) (rest : List Input) : State := { s with inputs := rest }

/-! ### Range-checked Buffer accesses (R55): the fault is raised at the access, and nothing is written

The fault carries the state the step leaves: all that it did before the access stands, and the agent that raised it has
stopped (`spec/92_eei_decisions.md` D7). The 32-bit view is the FSM's, the other two are the sequencer's (R57). -/

/-- The FSM stops at index `i`; the fault is on record for the rest of the run (D7, `spec/60_exceptions.md` R224). -/
def State.stopFsm (s : State) (i : Nat) : State := { s with fsmFault := some i, faults := i :: s.faults }

/-- The sequencer stops at index `i`; the fault is on record for the rest of the run (D7, R224). -/
def State.stopSeq (s : State) (i : Nat) : State := { s with seqFault := some i, faults := i :: s.faults }

/-- `raise Fault(BufferRange, i)` by the FSM (`spec/00_scope.md` R12). -/
def raiseFsm (i : Nat) (s : State) : Result := .fault (.bufferRange i (s.stopFsm i))

/-- `raise Fault(BufferRange, i)` by the sequencer (R12). -/
def raiseSeq (i : Nat) (s : State) : Result := .fault (.bufferRange i (s.stopSeq i))

/-- Read `Buf8[i]`. -/
def loadBuf8 (i : Nat) (s : State) (k : Byte → Result) : Result :=
  if i < bufBytes then k (buf8 s.buf i) else raiseSeq i s

/-- Read `Buf16[i]`. -/
def loadBuf16 (i : Nat) (s : State) (k : Halfword → Result) : Result :=
  if i < bufHalfwords then k (buf16 s.buf i) else raiseSeq i s

/-- Read `Buf32[i]`. -/
def loadBuf32 (i : Nat) (s : State) (k : Word → Result) : Result :=
  if i < bufWords then k (buf32 s.buf i) else raiseFsm i s

/-- Write `Buf8[i]`. -/
def storeBuf8 (i : Nat) (v : Byte) (s : State) (k : State → Result) : Result :=
  if i < bufBytes then k (s.setBuf (setBuf8 s.buf i v)) else raiseSeq i s

/-- Write `Buf16[i]`. -/
def storeBuf16 (i : Nat) (v : Halfword) (s : State) (k : State → Result) : Result :=
  if i < bufHalfwords then k (s.setBuf (setBuf16 s.buf i v)) else raiseSeq i s

/-- Write `Buf32[i]`. -/
def storeBuf32 (i : Nat) (v : Word) (s : State) (k : State → Result) : Result :=
  if i < bufWords then k (s.setBuf (setBuf32 s.buf i v)) else raiseFsm i s

/-! ### The interrupt and the reset event

The block takes no exception (`spec/60_exceptions.md` R220). Its one interrupt is the exchange (R228). Entry saves
nothing: the old `TXD` goes to the host and the FSM step runs (R230, `spec/20_memory.md` R62). Return restores nothing:
the sequencer goes on where it was (R231). -/

/-- Entry of the exchange interrupt: the host receives the old `TXD` (R62, R230). -/
def takeExchange (rx : Word) (s : State) : State := s.record (.exch rx s.txd)

/-- The reset event during a run (`spec/70_reset_and_hazards.md` R250, R252): the operation is abandoned where it stands,
and `WCR`, `TXD` and every Buffer byte are drawn (log 10). An agent that had stopped after a fault runs again: the block
waits in `Idle` for the first exchange (R250; log 22). The record of the faults raised stays, since a fault is never cleared
(`spec/60_exceptions.md` R224). The configuration and the environment are not the block's to reset. -/
def resetEvent (s : State) : State :=
  { s with
    state := .idle
    len := 0
    off := 0
    seq := .idle
    wcr := Config.resetWcr s.draws
    txd := Config.resetTxd s.draws
    buf := Memory.ofBytes (Config.resetByte s.draws)
    draws := s.draws + 1
    fsmFault := none
    seqFault := none
    history := .reset :: s.history }

/-! ### The cartridge bus (R64 to R68): an answer in store is taken, else a free value is drawn (log 3) -/

/-- The value of a 16-bit read. -/
def cartValue16 (a : Word) (s : State) : Halfword := s.cart16.headD (Config.cartAnswer16 s.draws a)

/-- The state after `CartRead16(a)` (R64). -/
def cartRead16 (a : Word) (s : State) : State :=
  { s with cart16 := s.cart16.tail, draws := s.draws + 1, history := .r16 a (cartValue16 a s) :: s.history }

/-- `CartWrite16(a, v)` (R65). -/
def cartWrite16 (a : Word) (v : Halfword) (s : State) : State := s.record (.w16 a v)

/-- The value of an 8-bit read. -/
def cartValue8 (a : Word) (s : State) : Byte := s.cart8.headD (Config.cartAnswer8 s.draws a)

/-- The state after `CartRead8(a)` (R66). -/
def cartRead8 (a : Word) (s : State) : State :=
  { s with cart8 := s.cart8.tail, draws := s.draws + 1, history := .r8 a (cartValue8 a s) :: s.history }

/-- `CartWrite8(a, v)` (R67). -/
def cartWrite8 (a : Word) (v : Byte) (s : State) : State := s.record (.w8 a v)

/-! ### The abstract save device (`spec/43_save_commands.md` R186; log 4) -/

/-- What the save device answers to a `SaveRead` now: `none` where the transaction has not ended. -/
def saveReadAnswer (s : State) : Option SaveReadAnswer :=
  match s.saveReads with
  | ans :: _ => ans
  | [] =>
    match Config.saveReadOutcome s.draws with
    | some o => some { bytes := [], outcome := o }
    | none => none

/-- The `n` bytes of an answer; a byte it does not list is a free value. -/
def saveReadBytes (n : Param) (ans : SaveReadAnswer) (s : State) : List Byte :=
  (List.range (byteLength n)).map fun i => (ans.bytes[i]?).getD (Config.saveByte s.draws i)

/-- What the save device answers to a `SaveWrite` now: `none` where the transaction has not ended. -/
def saveWriteAnswer (s : State) : Option SaveOutcome :=
  match s.saveWrites with
  | ans :: _ => ans
  | [] => Config.saveWriteOutcome s.draws

/-- The state after asking for a `SaveRead` answer. -/
def askSaveRead (s : State) : State := { s with saveReads := s.saveReads.tail, draws := s.draws + 1 }

/-- The state after asking for a `SaveWrite` answer. -/
def askSaveWrite (s : State) : State := { s with saveWrites := s.saveWrites.tail, draws := s.draws + 1 }

/-! ### The sequencer -/

/-- Dispatch of a worker command by the FSM (`spec/40_transfer_commands.md` R106). -/
def dispatchWorker (rx : Word) (s : State) : Result :=
  .next (((s.latch rx).goto .workerBusy).emit s.cfg.busyWord)

/-- Start of an operation (`spec/41_worker_crc32.md` R131): `cmd <- WCR`, first position, locals. -/
def startOperation (pos : SeqPos) (l : SeqLocals) (s : State) : Result := .next (s.toPos s.wcr pos l)

/-- The last two micro-steps of every operation (R132): the result, then the state. Anywhere else this operation has no
micro-step (log 14). -/
def completeOperation (cmd : Word) (pos : SeqPos) (l : SeqLocals) (s : State) : Result :=
  match pos with
  | .writeResult => .next ((s.latch l.result).toPos cmd .release l)
  | .release => .next s.releaseSeq
  | p => .refused (.notAtThisOperation p)

/-- One read of `Poll(a)` (`spec/42_flash_sequencer.md` R151): `s` takes the value; the operation goes on if the ready bit
is set, else it stays where it is, without bound (`spec/60_exceptions.md` R225). -/
def pollStatus (a cmd : Word) (pos : SeqPos) (l : SeqLocals) (s : State) (k : SeqLocals → State → Result) : Result :=
  if statusReady s.cfg (cartValue16 a s) then k { l with status := cartValue16 a s } (cartRead16 a s)
  else .next ((cartRead16 a s).toPos cmd pos { l with status := cartValue16 a s })

/-- Where a save operation goes after its transaction (R182, R183): the status is the result only on an error. -/
def afterSave (o : SaveOutcome) (cmd : Word) (l : SeqLocals) (s : State) : State :=
  match o with
  | .ok => s.toPos cmd .release l
  | .error st => s.toResult cmd st l

/-- The transaction of a save read (R182, R184): recorded when it ends, then its bytes are copied. -/
def saveReadTransfer (kind : SaveKind) (stay copy : SeqPos) (cmd : Word) (l : SeqLocals) (s : State) : Result :=
  match saveReadAnswer s with
  | none => .next ((askSaveRead s).toPos cmd stay l)
  | some ans =>
    let l' := { l with bytes := saveReadBytes l.n ans s, outcome := ans.outcome }
    let s' := (askSaveRead s).record (.saveRd kind l.n l'.bytes ans.outcome)
    .next (if byteLength l.n = 0 then afterSave ans.outcome cmd l' s' else s'.toPos cmd copy l')

/-- One byte of the copy of a save read (R182, R184): `Buf8[i] <- bytes[i]`; the local holds the bytes still to copy. -/
def saveReadCopy (copy : SeqPos) (cmd : Word) (l : SeqLocals) (s : State) : Result :=
  match l.bytes with
  | [] => .next (afterSave l.outcome cmd l s)
  | b :: rest =>
    storeBuf8 l.i b s fun s' =>
      let l' := { l with bytes := rest, i := l.i + 1 }
      .next (if rest = [] then afterSave l.outcome cmd l' s' else s'.toPos cmd copy l')

/-- One byte of the gathering of a save write (R183, R185): `bytes[i] <- Buf8[i]`. -/
def saveWriteGather (gather transfer : SeqPos) (cmd : Word) (l : SeqLocals) (s : State) : Result :=
  loadBuf8 l.i s fun b =>
    .next (s.toPos cmd (if l.i + 1 < byteLength l.n then gather else transfer)
      { l with bytes := l.bytes ++ [b], i := l.i + 1 })

/-- The transaction of a save write (R183, R185): recorded when it ends. -/
def saveWriteTransfer (kind : SaveKind) (stay : SeqPos) (cmd : Word) (l : SeqLocals) (s : State) : Result :=
  match saveWriteAnswer s with
  | none => .next ((askSaveWrite s).toPos cmd stay l)
  | some o =>
    .next (afterSave o cmd { l with outcome := o } ((askSaveWrite s).record (.saveWr kind l.n l.bytes o)))

end Sys2Proof.Machine
end

