-- ==== Sys2Proof/Machine/Crc.lean ====
section
/-! DEFINITION. The CRC-32 engine and the CRC32 command (`spec/41_worker_crc32.md` R136 to R140).

A worker command has two parts: in `WorkerBusy` its meaning is the sequencer's next micro-step (R130, R133), anywhere else
it is the dispatch by the FSM (`spec/40_transfer_commands.md` R106), which the decoder reaches in `Idle` only (log 13). -/

namespace Sys2Proof.Machine

/-- One of the eight steps of R136: shift right, and fold in the reflected polynomial if a one fell out. -/
def crcShift (c : Word) : Word := if c.getLsbD 0 then (c >>> 1) ^^^ 0xEDB88320 else c >>> 1

/-- `k` such steps. -/
def crcShifts : Nat → Word → Word
  | 0, c => c
  | k + 1, c => crcShifts k (crcShift c)

/-- `CRCTAB[n]` (R136). -/
def crcTab (n : Byte) : Word := crcShifts 8 (n.setWidth 32)

/-- `CrcUpdate(acc, b)`, table-driven (R137). -/
def crcUpdate (acc : Word) (b : Byte) : Word :=
  (acc >>> 8) ^^^ crcTab ((acc ^^^ b.setWidth 32).extractLsb' 0 8)

/-- The bit-serial form of the update (R137, `spec/10_state.md` R36). -/
def crcUpdateBitSerial (acc : Word) (b : Byte) : Word := crcShifts 8 (acc ^^^ b.setWidth 32)

/-- `CRCACC <- 0xFFFFFFFF` (R138). -/
def crcInit : Word := 0xFFFFFFFF

/-- The CRC-32 of a byte string: what the engine leaves in `WCR` (R138). -/
def crc32 (bs : List Byte) : Word := ~~~ (bs.foldl crcUpdate crcInit)

/-- After `i` bytes the operation goes on with the next one, or with its result (R138). -/
def crcContinue (cmd : Word) (l : SeqLocals) (s : State) : State :=
  if l.i < byteLength l.n then s.toPos cmd .crcByte l else s.toResult cmd (~~~ s.crcacc) l

/-- The micro-step of CRC32 (R138): one byte of the Buffer. -/
def crcMicroStep (cmd : Word) (l : SeqLocals) (s : State) : Result :=
  loadBuf8 l.i s fun b => .next (crcContinue cmd { l with i := l.i + 1 } (s.setAcc (crcUpdate s.crcacc b)))

/-- CRC32 (R138), `n` a byte length. -/
def execCrc32 (n : Param) (s : State) : Result :=
  if s.state = .workerBusy then
    match s.seq with
    | .idle => .next (crcContinue s.wcr { n := n } (s.setAcc crcInit))
    | .running cmd pos l =>
      match pos with
      | .crcByte => crcMicroStep cmd l s
      | pos => completeOperation cmd pos l s
  else dispatchWorker (commandWord s.cfg.tagCrc32 n) s

end Sys2Proof.Machine
end

