-- ==== Sys2Proof/Machine/Flash.lean ====
section
/-! DEFINITION. The flash-programming sequencer: ID, UNLOCK, ERASE, PROGRAM, DUMP (`spec/42_flash_sequencer.md` R150 to
R163). In `WorkerBusy` a meaning is the sequencer's next micro-step, anywhere else the dispatch by the FSM
(`spec/40_transfer_commands.md` R106; log 13). -/

namespace Sys2Proof.Machine

/-- The locals of a flash operation at its start: `A`, computed once (R150). -/
def flashLocals (c : Cfg) (p : Param) : SeqLocals := { a := flashAddress c p }

/-- The micro-steps of ID (R152, R153): the DIAG event changes nothing that a rule reads. -/
def idMicroStep (p : IdPos) (cmd : Word) (l : SeqLocals) (s : State) : Result :=
  match p with
  | .command => .next ((cartWrite16 l.a s.cfg.fcReadId s).toPos cmd (.id .manufacturer) l)
  | .manufacturer => .next ((cartRead16 l.a s).toPos cmd (.id .device) { l with code := cartValue16 l.a s })
  | .device =>
    let code : Word := l.code ++ cartValue16 (l.a + 2) s
    let read := cartRead16 (l.a + 2) s
    .next ((if chipUnsupported s.cfg code then read.record (.diag (.unsupportedChip code)) else read).toResult cmd code l)

/-- ID (R152, R153). -/
def execId (offset : Param) (s : State) : Result :=
  if s.state = .workerBusy then
    match s.seq with
    | .idle => startOperation (.id .command) (flashLocals s.cfg offset) s
    | .running cmd pos l =>
      match pos with
      | .id p => idMicroStep p cmd l s
      | pos => completeOperation cmd pos l s
  else dispatchWorker (commandWord s.cfg.tagId offset) s

/-- The poll that ends UNLOCK and ERASE: the status that ends it is the result (R154, R155, R161). -/
def statusPoll (pos : SeqPos) (cmd : Word) (l : SeqLocals) (s : State) : Result :=
  pollStatus l.a cmd pos l s fun l' s' => .next (s'.toResult cmd (statusResult l'.status) l')

/-- The micro-steps of UNLOCK (R154). -/
def unlockMicroStep (p : LockPos) (cmd : Word) (l : SeqLocals) (s : State) : Result :=
  match p with
  | .setup => .next ((cartWrite16 l.a s.cfg.fcClearLock s).toPos cmd (.unlock .confirm) l)
  | .confirm => .next ((cartWrite16 l.a s.cfg.fcConfirm s).toPos cmd (.unlock .poll) l)
  | .poll => statusPoll (.unlock .poll) cmd l s

/-- UNLOCK (R154). -/
def execUnlock (offset : Param) (s : State) : Result :=
  if s.state = .workerBusy then
    match s.seq with
    | .idle => startOperation (.unlock .setup) (flashLocals s.cfg offset) s
    | .running cmd pos l =>
      match pos with
      | .unlock p => unlockMicroStep p cmd l s
      | pos => completeOperation cmd pos l s
  else dispatchWorker (commandWord s.cfg.tagUnlock offset) s

/-- The micro-steps of ERASE (R155); its failure guard is dead and is not modelled (R156). -/
def eraseMicroStep (p : LockPos) (cmd : Word) (l : SeqLocals) (s : State) : Result :=
  match p with
  | .setup => .next ((cartWrite16 l.a s.cfg.fcErase s).toPos cmd (.erase .confirm) l)
  | .confirm => .next ((cartWrite16 l.a s.cfg.fcConfirm s).toPos cmd (.erase .poll) l)
  | .poll => statusPoll (.erase .poll) cmd l s

/-- ERASE (R155). -/
def execErase (offset : Param) (s : State) : Result :=
  if s.state = .workerBusy then
    match s.seq with
    | .idle => startOperation (.erase .setup) (flashLocals s.cfg offset) s
    | .running cmd pos l =>
      match pos with
      | .erase p => eraseMicroStep p cmd l s
      | pos => completeOperation cmd pos l s
  else dispatchWorker (commandWord s.cfg.tagErase offset) s

/-- After the closing poll of chunk `k` (R157, R159): a failed chunk and the last chunk end the operation with the status,
any other chunk is followed by the next. -/
def programNext (cmd : Word) (l : SeqLocals) (s : State) : Result :=
  if chunkFailed s.cfg l.status ∨ chunkCount s.cfg ≤ l.k + 1 then
    .next (s.toResult cmd (statusResult l.status) l)
  else .next (s.toPos cmd (.program .ready) { l with k := l.k + 1, j := 0 })

/-- The micro-steps of PROGRAM (R157 to R159). -/
def programMicroStep (p : ProgramPos) (cmd : Word) (l : SeqLocals) (s : State) : Result :=
  match p with
  | .ready =>
    pollStatus (chunkAddress s.cfg l.a l.k) cmd (.program .ready) l s fun l' s' =>
      .next (s'.toPos cmd (.program .command) l')
  | .command =>
    .next ((cartWrite16 (chunkAddress s.cfg l.a l.k) s.cfg.fcWriteBuffer s).toPos cmd (.program .count) l)
  | .count =>
    .next ((cartWrite16 (chunkAddress s.cfg l.a l.k) (BitVec.ofNat 16 (s.cfg.wbHalfwords - 1)) s).toPos cmd
      (.program .data) { l with j := 0 })
  | .data =>
    loadBuf16 (l.k * s.cfg.wbHalfwords + l.j) s fun v =>
      .next ((cartWrite16 (halfwordAddress (chunkAddress s.cfg l.a l.k) l.j) v s).toPos cmd
        (.program (if l.j + 1 < s.cfg.wbHalfwords then .data else .confirm)) { l with j := l.j + 1 })
  | .confirm =>
    .next ((cartWrite16 (chunkAddress s.cfg l.a l.k) s.cfg.fcConfirm s).toPos cmd (.program .verdict) l)
  | .verdict =>
    pollStatus (chunkAddress s.cfg l.a l.k) cmd (.program .verdict) l s fun l' s' => programNext cmd l' s'

/-- PROGRAM (R157 to R159). -/
def execProgram (offset : Param) (s : State) : Result :=
  if s.state = .workerBusy then
    match s.seq with
    | .idle => startOperation (.program .ready) (flashLocals s.cfg offset) s
    | .running cmd pos l =>
      match pos with
      | .program p => programMicroStep p cmd l s
      | pos => completeOperation cmd pos l s
  else dispatchWorker (commandWord s.cfg.tagProgram offset) s

/-- The micro-step of DUMP (R160): one halfword. -/
def dumpMicroStep (cmd : Word) (l : SeqLocals) (s : State) : Result :=
  storeBuf16 l.j (cartValue16 (halfwordAddress l.a l.j) s) (cartRead16 (halfwordAddress l.a l.j) s) fun s' =>
    .next (s'.toPos cmd (if l.j + 1 < bufHalfwords then .dumpHalfword else .release) { l with j := l.j + 1 })

/-- DUMP (R160): no command is written to the flash (R163). -/
def execDump (offset : Param) (s : State) : Result :=
  if s.state = .workerBusy then
    match s.seq with
    | .idle => startOperation .dumpHalfword (flashLocals s.cfg offset) s
    | .running cmd pos l =>
      match pos with
      | .dumpHalfword => dumpMicroStep cmd l s
      | pos => completeOperation cmd pos l s
  else dispatchWorker (commandWord s.cfg.tagDump offset) s

end Sys2Proof.Machine
end

