-- ==== Sys2Proof/Machine/Save.lean ====
section
/-! DEFINITION. The save-memory commands and the sequencer's default arm (`spec/43_save_commands.md` R180 to R188). In
`WorkerBusy` a meaning is the sequencer's next micro-step, anywhere else the dispatch by the FSM
(`spec/40_transfer_commands.md` R106; log 13). -/

namespace Sys2Proof.Machine

/-- The position of a byte loop after `i` of `n` bytes. -/
def bytePos (i n : Nat) (more done : SeqPos) : SeqPos := if i < n then more else done

/-- The micro-step of READ_SRAM (R180): one byte; the cartridge is read, then the Buffer is written
(`spec/60_exceptions.md` R227). -/
def readSramMicroStep (cmd : Word) (l : SeqLocals) (s : State) : Result :=
  storeBuf8 l.i (cartValue8 (sramAddress s.cfg l.i) s) (cartRead8 (sramAddress s.cfg l.i) s) fun s' =>
    .next (s'.toPos cmd (bytePos (l.i + 1) (byteLength l.n) .readSramByte .release) { l with i := l.i + 1 })

/-- READ_SRAM (R180). -/
def execReadSram (n : Param) (s : State) : Result :=
  if s.state = .workerBusy then
    match s.seq with
    | .idle => startOperation (bytePos 0 (byteLength n) .readSramByte .release) { n := n } s
    | .running cmd pos l =>
      match pos with
      | .readSramByte => readSramMicroStep cmd l s
      | pos => completeOperation cmd pos l s
  else dispatchWorker (commandWord s.cfg.tagReadSram n) s

/-- The micro-step of WRITE_SRAM (R181): one byte. -/
def writeSramMicroStep (cmd : Word) (l : SeqLocals) (s : State) : Result :=
  loadBuf8 l.i s fun b =>
    .next ((cartWrite8 (sramAddress s.cfg l.i) b s).toPos cmd
      (bytePos (l.i + 1) (byteLength l.n) .writeSramByte .release) { l with i := l.i + 1 })

/-- WRITE_SRAM (R181). -/
def execWriteSram (n : Param) (s : State) : Result :=
  if s.state = .workerBusy then
    match s.seq with
    | .idle => startOperation (bytePos 0 (byteLength n) .writeSramByte .release) { n := n } s
    | .running cmd pos l =>
      match pos with
      | .writeSramByte => writeSramMicroStep cmd l s
      | pos => completeOperation cmd pos l s
  else dispatchWorker (commandWord s.cfg.tagWriteSram n) s

/-- The micro-steps of READ_FLASH (R182). -/
def readFlashMicroStep (p : SaveReadPos) (cmd : Word) (l : SeqLocals) (s : State) : Result :=
  match p with
  | .transfer => saveReadTransfer .flash (.readFlash .transfer) (.readFlash .copy) cmd l s
  | .copy => saveReadCopy (.readFlash .copy) cmd l s

/-- READ_FLASH (R182, R186). -/
def execReadFlash (n : Param) (s : State) : Result :=
  if s.state = .workerBusy then
    match s.seq with
    | .idle => startOperation (.readFlash .transfer) { n := n } s
    | .running cmd pos l =>
      match pos with
      | .readFlash p => readFlashMicroStep p cmd l s
      | pos => completeOperation cmd pos l s
  else dispatchWorker (commandWord s.cfg.tagReadFlash n) s

/-- The micro-steps of WRITE_FLASH (R183). -/
def writeFlashMicroStep (p : SaveWritePos) (cmd : Word) (l : SeqLocals) (s : State) : Result :=
  match p with
  | .gather => saveWriteGather (.writeFlash .gather) (.writeFlash .transfer) cmd l s
  | .transfer => saveWriteTransfer .flash (.writeFlash .transfer) cmd l s

/-- WRITE_FLASH (R183, R186). -/
def execWriteFlash (n : Param) (s : State) : Result :=
  if s.state = .workerBusy then
    match s.seq with
    | .idle => startOperation (bytePos 0 (byteLength n) (.writeFlash .gather) (.writeFlash .transfer)) { n := n } s
    | .running cmd pos l =>
      match pos with
      | .writeFlash p => writeFlashMicroStep p cmd l s
      | pos => completeOperation cmd pos l s
  else dispatchWorker (commandWord s.cfg.tagWriteFlash n) s

/-- The micro-steps of READ_EEPROM (R184). -/
def readEepromMicroStep (p : SaveReadPos) (cmd : Word) (l : SeqLocals) (s : State) : Result :=
  match p with
  | .transfer => saveReadTransfer .eeprom (.readEeprom .transfer) (.readEeprom .copy) cmd l s
  | .copy => saveReadCopy (.readEeprom .copy) cmd l s

/-- READ_EEPROM (R184, R186). -/
def execReadEeprom (n : Param) (s : State) : Result :=
  if s.state = .workerBusy then
    match s.seq with
    | .idle => startOperation (.readEeprom .transfer) { n := n } s
    | .running cmd pos l =>
      match pos with
      | .readEeprom p => readEepromMicroStep p cmd l s
      | pos => completeOperation cmd pos l s
  else dispatchWorker (commandWord s.cfg.tagReadEeprom n) s

/-- The micro-steps of WRITE_EEPROM (R185). -/
def writeEepromMicroStep (p : SaveWritePos) (cmd : Word) (l : SeqLocals) (s : State) : Result :=
  match p with
  | .gather => saveWriteGather (.writeEeprom .gather) (.writeEeprom .transfer) cmd l s
  | .transfer => saveWriteTransfer .eeprom (.writeEeprom .transfer) cmd l s

/-- WRITE_EEPROM (R185, R186). -/
def execWriteEeprom (n : Param) (s : State) : Result :=
  if s.state = .workerBusy then
    match s.seq with
    | .idle => startOperation (bytePos 0 (byteLength n) (.writeEeprom .gather) (.writeEeprom .transfer)) { n := n } s
    | .running cmd pos l =>
      match pos with
      | .writeEeprom p => writeEepromMicroStep p cmd l s
      | pos => completeOperation cmd pos l s
  else dispatchWorker (commandWord s.cfg.tagWriteEeprom n) s

/-- The sequencer's default arm (R187): logged, the register unchanged, back to `Idle`. The FSM never dispatches such a
command, so there is no other part. -/
def execUnrecognisedWorker (cmdTag : Byte) (param : Param) (s : State) : Result :=
  match s.seq with
  | .idle => startOperation .logUnrecognised {} s
  | .running cmd pos l =>
    match pos with
    | .logUnrecognised =>
      .next ((s.record (.diag (.unrecognisedWorkerCommand (commandWord cmdTag param)))).toPos cmd .release l)
    | pos => completeOperation cmd pos l s

end Sys2Proof.Machine
end

