-- ==== Sys2Proof/Machine/Transfer.lean ====
section
/-! DEFINITION. What the FSM executes by itself (`spec/40_transfer_commands.md` R102 to R105, R107 to R111). A meaning is
the branch of `FsmStep` that `STATE` and the decoder select (R100); it does not test `STATE` again. The exchange event
around it (`spec/20_memory.md` R62) is `step`'s. -/

namespace Sys2Proof.Machine

/-- NOP (R102). -/
def execNop (s : State) : Result := .next (s.emit s.cfg.idleWord)

/-- UPLOAD (R103). -/
def execUpload (count : Param) (s : State) : Result :=
  .next (((s.goto .uploading).setTransfer (wordCount count) 0).emit s.cfg.idleWord)

/-- DOWNLOAD (R104): the read of `Buf32[0]` does not test `LEN`. -/
def execDownload (count : Param) (s : State) : Result :=
  loadBuf32 0 s fun w => .next (((s.goto .downloading).setTransfer (wordCount count) 1).emit w)

/-- READ (R105); its parameter bits are ignored (R88). -/
def execRead (_ignored : Param) (s : State) : Result := .next ((s.emit s.wcr).goto .reading)

/-- Invalid word (R107, R89). -/
def execInvalid (word : Word) (s : State) : Result :=
  .next ((s.record (.diag (.invalidCommand word))).emit s.cfg.idleWord)

/-- The end of an `Uploading` step (R108): back to `Idle` when the count is complete. -/
def uploadingEnd (s : State) : Result :=
  .next ((if s.off < s.len then s else s.goto .idle).emit s.cfg.idleWord)

/-- The `Uploading` step (R108): the word is stored if `OFF < LEN`, then the count is tested. -/
def execUploadingStep (data : Word) (s : State) : Result :=
  if s.off < s.len then
    storeBuf32 s.off.toNat data s fun s' => uploadingEnd (s'.setTransfer s'.len (s'.off + 1))
  else uploadingEnd s

/-- The `Downloading` step (R109). -/
def execDownloadingStep (_data : Word) (s : State) : Result :=
  if s.off < s.len then
    loadBuf32 s.off.toNat s fun w => .next ((s.emit w).setTransfer s.len (s.off + 1))
  else .next ((s.goto .idle).emit s.cfg.idleWord)

/-- The `Reading` step (R110). -/
def execReadingStep (_data : Word) (s : State) : Result := .next ((s.goto .idle).emit s.cfg.idleWord)

/-- The FSM's `WorkerBusy` step (R111). -/
def execWorkerBusyStep (_data : Word) (s : State) : Result := .next (s.emit s.cfg.busyWord)

end Sys2Proof.Machine
end

