-- ==== Sys2Proof/Machine/Dispatch.lean ====
section
/-! DEFINITION. One arm per constructor of Instr, each one direct call of its meaning. -/

namespace Sys2Proof.Machine

def exec (i : Instr) (s : State) : Host.Outcome State Fault Refusal :=
  match i with
  | .nop => Sys2Proof.Machine.execNop s
  | .upload count => Sys2Proof.Machine.execUpload count s
  | .download count => Sys2Proof.Machine.execDownload count s
  | .read ignored => Sys2Proof.Machine.execRead ignored s
  | .crc32 n => Sys2Proof.Machine.execCrc32 n s
  | .readSram n => Sys2Proof.Machine.execReadSram n s
  | .writeSram n => Sys2Proof.Machine.execWriteSram n s
  | .readFlash n => Sys2Proof.Machine.execReadFlash n s
  | .writeFlash n => Sys2Proof.Machine.execWriteFlash n s
  | .readEeprom n => Sys2Proof.Machine.execReadEeprom n s
  | .writeEeprom n => Sys2Proof.Machine.execWriteEeprom n s
  | .dump offset => Sys2Proof.Machine.execDump offset s
  | .id offset => Sys2Proof.Machine.execId offset s
  | .unlock offset => Sys2Proof.Machine.execUnlock offset s
  | .erase offset => Sys2Proof.Machine.execErase offset s
  | .program offset => Sys2Proof.Machine.execProgram offset s
  | .invalid word => Sys2Proof.Machine.execInvalid word s
  | .uploadingStep data => Sys2Proof.Machine.execUploadingStep data s
  | .downloadingStep data => Sys2Proof.Machine.execDownloadingStep data s
  | .readingStep data => Sys2Proof.Machine.execReadingStep data s
  | .workerBusyStep data => Sys2Proof.Machine.execWorkerBusyStep data s
  | .unrecognisedWorker cmd param => Sys2Proof.Machine.execUnrecognisedWorker cmd param s

end Sys2Proof.Machine
end

