-- ==== Sys2Proof/Machine/Sequencer.lean ====
section
/-! DEFINITION. What the two agents read as their instruction: the sequencer the latched command
(`spec/41_worker_crc32.md` R130, R131), the FSM the incoming word (`spec/20_memory.md` R62). Step only calls these. -/

namespace Sys2Proof.Machine

/-- The command the sequencer works on: the one it kept when it started, else the one in `WCR` (R131). -/
def latchedCommand (s : State) : Word :=
  match s.seq with
  | .idle => s.wcr
  | .running cmd _ _ => cmd

/-- The instruction the sequencer reads from it. -/
def sequencerInstr (s : State) : Instr := decodeWorker s.cfg (latchedCommand s)

/-- The sequencer has a step exactly in `WorkerBusy` (R130), unless it has stopped after a fault
(`spec/92_eei_decisions.md` D7, `spec/93_implementation_defined.md` U3). -/
def sequencerEnabled (s : State) : Bool := decide (s.state = .workerBusy) && s.seqFault.isNone

/-- The instruction the FSM reads from an incoming word (`spec/30_encoding.md` R81). -/
def incomingInstr (rx : Word) (s : State) : Instr := decodeIncoming s.cfg s.state rx

/-- The environment offers the word of an instruction as the next exchange, with the FSM in `Idle`, the sequencer at rest and
neither stopped, the place where a command is read (R81). The word is the low 32 bits; an instruction has no other bits
(R80). -/
def offerWord (w : Nat) (s : State) : State :=
  { s with
    state := .idle, seq := .idle, fsmFault := none, seqFault := none
    inputs := .exchange (BitVec.ofNat 32 w) :: s.inputs }

end Sys2Proof.Machine
end

