-- ==== Sys2Proof/Machine/Agents.lean ====
section
/-! DEFINITION. The moves of the block's two agents: the sequencer's turn (`spec/41_worker_crc32.md` R130) and the exchange
with its FSM step (`spec/20_memory.md` R62, `spec/40_transfer_commands.md` R100). Step only calls these. -/

namespace Sys2Proof.Machine

/-- The sequencer's turn: its next micro-step if it is enabled (R130); else nothing moves (`spec/60_exceptions.md`
R238), also where it has stopped after a fault (`spec/93_implementation_defined.md` U3). -/
def sequencerTurn (s : State) : Result :=
  if sequencerEnabled s then exec (sequencerInstr s) s else .next s

/-- One exchange (R62): the old `TXD` goes to the host, then the FSM step runs. An FSM that has stopped after a fault has no
further step (`spec/93_implementation_defined.md` U1, U2): the outcome is its fault again, and nothing is delivered or
recorded. DESIGN CHOICE (log 11): the spec says no more of such an exchange. -/
def exchange (rx : Word) (s : State) : Result :=
  match s.fsmFault with
  | none => exec (incomingInstr rx s) (takeExchange rx s)
  | some i => .fault (.bufferRange i s)

end Sys2Proof.Machine
end

