-- ==== Sys2Proof/Machine/Step.lean ====
section
/-! DEFINITION. One step of the machine: the next move of the environment's list (log 2) is an exchange, the sequencer's
turn, or a reset (`spec/00_scope.md` R14, `spec/20_memory.md` R62, R70, `spec/41_worker_crc32.md` R130,
`spec/70_reset_and_hazards.md` R250). A step that faults leaves a state too, from which the other agent goes on. -/

namespace Sys2Proof.Machine

/-- One step. A list of moves that is used up leaves every further step to the sequencer (R269; log 2). -/
def step (s : State) : Host.Outcome State Fault Refusal :=
  match s.inputs with
  | [] => sequencerTurn s
  | .exchange rx :: rest => exchange rx (s.withInputs rest)
  | .sequencer :: rest => sequencerTurn (s.withInputs rest)
  | .reset :: rest => .next (resetEvent (s.withInputs rest))

/-- The state that a step leaves: the next state, or the one its fault carries (`spec/92_eei_decisions.md` D7). -/
def stateAfter (s : State) : Option State :=
  match step s with
  | .next t => some t
  | .fault f => some f.after
  | .refused _ => none

/-- `n` steps of a run that goes on past a fault: the agent that raised it has stopped, the other one still moves, and a
reset event is still obeyed (D7, `spec/93_implementation_defined.md` U1 to U3). A run without a fault is the host's
`Core.run`. -/
def runOn : Nat → State → Option State
  | 0, s => some s
  | n + 1, s =>
    match stateAfter s with
    | some t => runOn n t
    | none => none

/-- The instruction's word offered as the next exchange, in the place where a command is read (log 19). -/
def State.withFetchWord (s : State) (_nbits w : Nat) : State := offerWord w s

end Sys2Proof.Machine
end

