-- ==== Sys2Proof/Safety.lean ====
section
/-! DEFINITION. The terms the claims are written in: which instructions the sequencer executes, where it may stand, the
invariant of the spec (`spec/10_state.md` R38) with the model's own clauses, and the events the environment sees. -/

namespace Sys2Proof.Machine

/-- The twelve worker commands (`spec/30_encoding.md` R82, `spec/40_transfer_commands.md` R106). -/
def isWorkerCommand : Instr → Bool
  | .nop => false
  | .upload _ => false
  | .download _ => false
  | .read _ => false
  | .crc32 _ => true
  | .readSram _ => true
  | .writeSram _ => true
  | .readFlash _ => true
  | .writeFlash _ => true
  | .readEeprom _ => true
  | .writeEeprom _ => true
  | .dump _ => true
  | .id _ => true
  | .unlock _ => true
  | .erase _ => true
  | .program _ => true
  | .invalid _ => false
  | .uploadingStep _ => false
  | .downloadingStep _ => false
  | .readingStep _ => false
  | .workerBusyStep _ => false
  | .unrecognisedWorker _ _ => false

/-- What the sequencer executes: the twelve, and its default arm (`spec/41_worker_crc32.md` R131). -/
def isSequencerInstr (i : Instr) : Bool :=
  match i with
  | .nop => false
  | .upload _ => false
  | .download _ => false
  | .read _ => false
  | .crc32 _ => true
  | .readSram _ => true
  | .writeSram _ => true
  | .readFlash _ => true
  | .writeFlash _ => true
  | .readEeprom _ => true
  | .writeEeprom _ => true
  | .dump _ => true
  | .id _ => true
  | .unlock _ => true
  | .erase _ => true
  | .program _ => true
  | .invalid _ => false
  | .uploadingStep _ => false
  | .downloadingStep _ => false
  | .readingStep _ => false
  | .workerBusyStep _ => false
  | .unrecognisedWorker _ _ => true

/-- The operations that can write a result into `WCR` (`spec/41_worker_crc32.md` R135, `spec/43_save_commands.md` R188). -/
def hasResult (i : Instr) : Bool :=
  match i with
  | .nop => false
  | .upload _ => false
  | .download _ => false
  | .read _ => false
  | .crc32 _ => true
  | .readSram _ => false
  | .writeSram _ => false
  | .readFlash _ => true
  | .writeFlash _ => true
  | .readEeprom _ => true
  | .writeEeprom _ => true
  | .dump _ => false
  | .id _ => true
  | .unlock _ => true
  | .erase _ => true
  | .program _ => true
  | .invalid _ => false
  | .uploadingStep _ => false
  | .downloadingStep _ => false
  | .readingStep _ => false
  | .workerBusyStep _ => false
  | .unrecognisedWorker _ _ => false

/-- The operation has a result to write before it is done (`spec/41_worker_crc32.md` R135): the status and value commands
always, the four save-flash and EEPROM commands exactly after an error of their transaction (`spec/43_save_commands.md` R182
to R185, R188), the others never. -/
def mustWriteResult (i : Instr) (o : SaveOutcome) : Bool :=
  match i with
  | .nop => false
  | .upload _ => false
  | .download _ => false
  | .read _ => false
  | .crc32 _ => true
  | .readSram _ => false
  | .writeSram _ => false
  | .readFlash _ => decide (o ≠ .ok)
  | .writeFlash _ => decide (o ≠ .ok)
  | .readEeprom _ => decide (o ≠ .ok)
  | .writeEeprom _ => decide (o ≠ .ok)
  | .dump _ => false
  | .id _ => true
  | .unlock _ => true
  | .erase _ => true
  | .program _ => true
  | .invalid _ => false
  | .uploadingStep _ => false
  | .downloadingStep _ => false
  | .readingStep _ => false
  | .workerBusyStep _ => false
  | .unrecognisedWorker _ _ => false

/-- The rom-offset of the five flash commands (`spec/30_encoding.md` R87); 0 for any other instruction. -/
def romOffsetOf (i : Instr) : Param :=
  match i with
  | .nop => 0
  | .upload _ => 0
  | .download _ => 0
  | .read _ => 0
  | .crc32 _ => 0
  | .readSram _ => 0
  | .writeSram _ => 0
  | .readFlash _ => 0
  | .writeFlash _ => 0
  | .readEeprom _ => 0
  | .writeEeprom _ => 0
  | .dump p => p
  | .id p => p
  | .unlock p => p
  | .erase p => p
  | .program p => p
  | .invalid _ => 0
  | .uploadingStep _ => 0
  | .downloadingStep _ => 0
  | .readingStep _ => 0
  | .workerBusyStep _ => 0
  | .unrecognisedWorker _ _ => 0

/-- A byte loop may stand at byte `i` of `n`: inside the length, and at most at the first index past the Buffer (R227). -/
def byteLoopOk (i n : Nat) : Bool := decide (i < n) && decide (i ≤ bufBytes)

/-- PROGRAM stands in a chunk of the block, and its data loop in a word of the chunk (R157, `spec/10_state.md` R33). -/
def programLoopOk (c : Cfg) (p : ProgramPos) (l : SeqLocals) : Bool :=
  decide (l.k < chunkCount c) && (decide (p ≠ .data) || decide (l.j < c.wbHalfwords))

/-- A save read stands before its transaction, or with as many bytes still to copy as the length leaves (R182, R184). -/
def saveReadOk (p : SaveReadPos) (n : Nat) (l : SeqLocals) : Bool :=
  match p with
  | .transfer => decide (l.i = 0)
  | .copy => byteLoopOk l.i n && decide (l.i + l.bytes.length = n)

/-- A save write holds the bytes gathered so far, and before its transaction all of them (R183, R185). -/
def saveWriteOk (p : SaveWritePos) (n : Nat) (l : SeqLocals) : Bool :=
  match p with
  | .gather => byteLoopOk l.i n && decide (l.bytes.length = l.i)
  | .transfer => decide (l.bytes.length = n)

/-- The instruction has a position of its own operation at `pos`, with what the locals hold there: the parameter (R34), the
flash address (R33, `spec/42_flash_sequencer.md` R150), the loop indexes in their ranges. `writeResult` stands only where
the operation has a result (`spec/41_worker_crc32.md` R135), `release` in all. -/
def operationAt (c : Cfg) (i : Instr) (pos : SeqPos) (l : SeqLocals) : Bool :=
  match pos with
  | .crcByte => decide (i = .crc32 l.n) && byteLoopOk l.i (byteLength l.n)
  | .id _ => decide (i = .id (romOffsetOf i)) && decide (l.a = flashAddress c (romOffsetOf i))
  | .unlock _ => decide (i = .unlock (romOffsetOf i)) && decide (l.a = flashAddress c (romOffsetOf i))
  | .erase _ => decide (i = .erase (romOffsetOf i)) && decide (l.a = flashAddress c (romOffsetOf i))
  | .program q =>
    decide (i = .program (romOffsetOf i)) && decide (l.a = flashAddress c (romOffsetOf i)) && programLoopOk c q l
  | .dumpHalfword =>
    decide (i = .dump (romOffsetOf i)) && decide (l.a = flashAddress c (romOffsetOf i)) && decide (l.j < bufHalfwords)
  | .readSramByte => decide (i = .readSram l.n) && byteLoopOk l.i (byteLength l.n)
  | .writeSramByte => decide (i = .writeSram l.n) && byteLoopOk l.i (byteLength l.n)
  | .readFlash q => decide (i = .readFlash l.n) && saveReadOk q (byteLength l.n) l
  | .writeFlash q => decide (i = .writeFlash l.n) && saveWriteOk q (byteLength l.n) l
  | .readEeprom q => decide (i = .readEeprom l.n) && saveReadOk q (byteLength l.n) l
  | .writeEeprom q => decide (i = .writeEeprom l.n) && saveWriteOk q (byteLength l.n) l
  | .logUnrecognised => isSequencerInstr i && !(isWorkerCommand i)
  | .writeResult => hasResult i
  | .release => isSequencerInstr i

/-- What `SEQ` may be (R32, R38 f, g): running only in `WorkerBusy`, at a position of the operation of its own command, and
with the command still in `WCR` until the result has been written. -/
def seqInv (s : State) : Prop :=
  match s.seq with
  | .idle => True
  | .running cmd pos l =>
    s.state = .workerBusy ∧ operationAt s.cfg (decodeWorker s.cfg cmd) pos l = true ∧ (pos ≠ .release → s.wcr = cmd)

/-- The byte length of the seven commands whose operation can reach the end of the Buffer (R227); 0 for any other
instruction. -/
def byteLengthOf (i : Instr) : Nat :=
  match i with
  | .nop => 0
  | .upload _ => 0
  | .download _ => 0
  | .read _ => 0
  | .crc32 n => byteLength n
  | .readSram n => byteLength n
  | .writeSram n => byteLength n
  | .readFlash n => byteLength n
  | .writeFlash n => byteLength n
  | .readEeprom n => byteLength n
  | .writeEeprom n => byteLength n
  | .dump _ => 0
  | .id _ => 0
  | .unlock _ => 0
  | .erase _ => 0
  | .program _ => 0
  | .invalid _ => 0
  | .uploadingStep _ => 0
  | .downloadingStep _ => 0
  | .readingStep _ => 0
  | .workerBusyStep _ => 0
  | .unrecognisedWorker _ _ => 0

/-- The invariant: the configuration meets its constraints (`spec/00_scope.md` R7), the Buffer is in canonical form, and
the clauses (b) to (g) of R38. `OFF` never passes the Buffer's 32768 words, since the access before it would have faulted
(R55, R227); in `WorkerBusy` the command is one of the twelve (`spec/41_worker_crc32.md` R131). An agent that has stopped
stands where its fault was raised (`spec/93_implementation_defined.md` U1 to U3), and the fault is on record. -/
structure Inv (s : State) : Prop where
  cfgValid : s.cfg.valid = true
  bufWf : Memory.wf s.buf = true
  lenBound : s.len.toNat < 2 ^ 24
  offBound : s.off.toNat ≤ max s.len.toNat 1
  offInBuffer : s.off.toNat ≤ bufWords
  uploading : s.state = .uploading → s.off < s.len ∨ (s.off = 0 ∧ s.len = 0)
  downloading : s.state = .downloading → 1 ≤ s.off.toNat
  seqInv : seqInv s
  workerKnown : s.state = .workerBusy → isWorkerCommand (sequencerInstr s) = true
  fsmStopped : ∀ i, s.fsmFault = some i →
    (s.state = .uploading ∨ s.state = .downloading) ∧ i = bufWords ∧ s.off.toNat = bufWords ∧ s.off < s.len ∧ i ∈ s.faults
  seqStopped : ∀ i, s.seqFault = some i →
    s.state = .workerBusy ∧ i = bufBytes ∧ bufBytes < byteLengthOf (sequencerInstr s) ∧ i ∈ s.faults

/-- A step ends in a next state or in a fault, never in a refusal. -/
def NeverRefuses (s : State) : Prop := ∀ r, step s ≠ .refused r

/-! ### What the environment sees -/

/-- An event on the cartridge bus or with the save device (`spec/20_memory.md` R78). -/
def Event.onBus : Event → Bool
  | .exch _ _ => false
  | .r16 _ _ => true
  | .w16 _ _ => true
  | .r8 _ _ => true
  | .w8 _ _ => true
  | .saveRd _ _ _ _ => true
  | .saveWr _ _ _ _ => true
  | .diag _ => false
  | .reset => false

/-- The bus events of a history, newest first. -/
def busEvents (h : List Event) : List Event := h.filter Event.onBus

/-- The word the host receives in an event: the `tx` of an exchange (R62). -/
def Event.received : Event → Option Word
  | .exch _ tx => some tx
  | .r16 _ _ => none
  | .w16 _ _ => none
  | .r8 _ _ => none
  | .w8 _ _ => none
  | .saveRd _ _ _ _ => none
  | .saveWr _ _ _ _ => none
  | .diag _ => none
  | .reset => none

/-- The words the host has received, newest first. -/
def receivedWords (h : List Event) : List Word := h.filterMap Event.received

/-- The event is the record of an exchange. -/
def Event.isExchange (e : Event) : Bool := e.received.isSome

/-- The history without its exchanges: bus, save-device, diagnostic and reset events, newest first. -/
def eventsBesideExchanges (h : List Event) : List Event := h.filter fun e => !e.isExchange

/-- Two states that differ at most in `TXD` and in the exchanges on record: all that an exchange in `WorkerBusy` can have
changed (`spec/40_transfer_commands.md` R111, `spec/60_exceptions.md` R231). -/
def SameButForExchanges (s t : State) : Prop :=
  { s with txd := t.txd, history := t.history } = t ∧ eventsBesideExchanges s.history = eventsBesideExchanges t.history

/-- The move is an exchange. -/
def Input.isExchange : Input → Bool
  | .exchange _ => true
  | .sequencer => false
  | .reset => false

/-- The host sends these words, one exchange each (`spec/44_host_sequences.md` R200). -/
def hostSends (ws : List Word) : List Input := ws.map Input.exchange

/-- The events a whole PROGRAM issues for one chunk whose two status reads answer `ready` and `verdict` at once, oldest
first (`spec/42_flash_sequencer.md` R157, R158). -/
def chunkEvents (c : Cfg) (m : Memory) (a : Word) (k : Nat) (ready verdict : Halfword) : List Event :=
  [.r16 (chunkAddress c a k) ready,
   .w16 (chunkAddress c a k) c.fcWriteBuffer,
   .w16 (chunkAddress c a k) (BitVec.ofNat 16 (c.wbHalfwords - 1))] ++
  ((List.range c.wbHalfwords).map fun j =>
    .w16 (halfwordAddress (chunkAddress c a k) j) (buf16 m (k * c.wbHalfwords + j))) ++
  [.w16 (chunkAddress c a k) c.fcConfirm,
   .r16 (chunkAddress c a k) verdict]

/-- Write the bytes `bs` into the Buffer from byte `i` on, in ascending order. -/
def setBytes (m : Memory) (i : Nat) : List Byte → Memory
  | [] => m
  | b :: bs => setBytes (setBuf8 m i b) (i + 1) bs

/-- Write the halfwords `vs` into the Buffer from `Buf16[j]` on, in ascending order. -/
def setHalfwords (m : Memory) (j : Nat) : List Halfword → Memory
  | [] => m
  | v :: vs => setHalfwords (setBuf16 m j v) (j + 1) vs

/-- Write the words `ws` into the Buffer from `Buf32[i]` on, in ascending order. -/
def setWords (m : Memory) (i : Nat) : List Word → Memory
  | [] => m
  | w :: ws => setWords (setBuf32 m i w) (i + 1) ws

end Sys2Proof.Machine
end

