-- ==== Sys2Proof/Certificates/Slice0/Obligations.lean ====
section
/-! DEFINITION. The statements for the provers, from the numbered rules of `spec/`. A statement is over every state, with
every configuration, every schedule and every answer of the environment, unless it says otherwise. A step that has a next
state raised no fault (`spec/00_scope.md` R12, `spec/60_exceptions.md` R224); a statement over `stateAfter` also covers the
state that a faulting step leaves. -/

open Sys2Proof Sys2Proof.Machine

/-! ### Encoding -/

/-- Decode and encode agree (R80 to R91, R131): an instruction's word, read in the place where that instruction is read,
is that instruction, with every operand at every value. -/
def Obligations.DecodeOfEncode : Prop :=
  ∀ c : Cfg, c.valid = true → ∀ i : Instr, i.wellFormed c = true → decodeAt c (decodeContext i) (encode c i) = i

/-- Decoding is total and drops no bit (R81, R82, R89, R131): the instruction read from any word in any place is well
formed and encodes to that word. For READ this holds because the model keeps the 24 bits that READ ignores as an operand,
which is the model's choice (log 20): R82 gives READ no operand, and R88 ignores the bits. -/
def Obligations.EncodeOfDecode : Prop :=
  ∀ (c : Cfg) (ctx : DecodeContext) (w : Word),
    encode c (decodeAt c ctx w) = w ∧ (decodeAt c ctx w).wellFormed c = true

/-- The two top-byte dispatches agree (R82, R106, R131): on a word with a worker tag the FSM and the sequencer read the
same one of the twelve commands. -/
def Obligations.SequencerReadsTheDispatchedCommand : Prop :=
  ∀ c : Cfg, c.valid = true → ∀ w : Word, c.workerTags.contains (wordTag w) = true →
    decodeIncoming c .idle w = decodeWorker c w ∧ isWorkerCommand (decodeWorker c w) = true

/-- Words written out from the tag table (R84, R91) and from the vectors F1 to F24 decode to what they stand for, also
those that are no command. The order of a word's bytes in the table is the model's choice (log 17). -/
def Obligations.TableWordsDecode : Prop :=
  decodeTableWord 32 0x004E4F50 = some .nop ∧ decodeTableWord 32 0x01000004 = some (.upload 4) ∧
  decodeTableWord 32 0x02000002 = some (.download 2) ∧ decodeTableWord 32 0x03ABCDEF = some (.read 0xABCDEF) ∧
  decodeTableWord 32 0x10000010 = some (.crc32 16) ∧ decodeTableWord 32 0x21008000 = some (.writeSram 32768) ∧
  decodeTableWord 32 0x24002000 = some (.readEeprom 8192) ∧ decodeTableWord 32 0x33000200 = some (.erase 512) ∧
  decodeTableWord 32 0x004E4F51 = some (.invalid 0x004E4F51) ∧ decodeTableWord 32 0xFF000000 = some (.invalid 0xFF000000)

/-- Determinism by top byte (R114): in `Idle` two words with the same top byte lead to the same next `STATE`. -/
def Obligations.TopByteDecidesNextState : Prop :=
  ∀ (s : State) (w w' : Word), s.state = .idle → wordTag w = wordTag w' →
    ∃ t t', exec (incomingInstr w s) s = .next t ∧ exec (incomingInstr w' s) s = .next t' ∧ t.state = t'.state

/-! ### The FSM's instructions (`spec/40_transfer_commands.md`) -/

/-- NOP (R102): only `TXD` changes. The word is NOP in `Idle` only; in `WorkerBusy` it gets `BUSY_WORD`, in `Uploading` it
is payload, in `Downloading` and `Reading` it is ignored (R109, R110). -/
def Obligations.NopEmitsIdle : Prop :=
  ∀ s : State,
    exec .nop s = .next { s with txd := s.cfg.idleWord } ∧
    (s.cfg.valid = true → s.state = .idle → incomingInstr s.cfg.nopWord s = .nop) ∧
    (s.state = .workerBusy → incomingInstr s.cfg.nopWord s = .workerBusyStep s.cfg.nopWord ∧
      exec (.workerBusyStep s.cfg.nopWord) s = .next { s with txd := s.cfg.busyWord }) ∧
    (s.state = .uploading → incomingInstr s.cfg.nopWord s = .uploadingStep s.cfg.nopWord) ∧
    (s.state = .downloading → incomingInstr s.cfg.nopWord s = .downloadingStep s.cfg.nopWord) ∧
    (s.state = .reading → incomingInstr s.cfg.nopWord s = .readingStep s.cfg.nopWord) ∧
    (s.state ≠ .idle → incomingInstr s.cfg.nopWord s ≠ .nop)

/-- UPLOAD (R103): the transfer context is set, the Buffer is not touched, no count is refused. -/
def Obligations.UploadOpensTransfer : Prop :=
  ∀ (s : State) (rx : Word),
    (∀ p : Param, exec (.upload p) s =
      .next { s with state := .uploading, len := p.setWidth 32, off := 0, txd := s.cfg.idleWord }) ∧
    (s.state = .idle → wordTag rx = s.cfg.tagUpload → incomingInstr rx s = .upload (rx.extractLsb' 0 24))

/-- DOWNLOAD (R104): `Buf32[0]` is loaded whatever the count, and `OFF` is 1. -/
def Obligations.DownloadPrefetchesFirstWord : Prop :=
  ∀ (s : State) (rx : Word),
    (∀ p : Param, exec (.download p) s =
      .next { s with state := .downloading, len := p.setWidth 32, off := 1, txd := buf32 s.buf 0 }) ∧
    (s.cfg.valid = true → s.state = .idle → wordTag rx = s.cfg.tagDownload →
      incomingInstr rx s = .download (rx.extractLsb' 0 24))

/-- READ (R105): `WCR` is loaded into `TXD` and kept; the parameter bits are ignored. -/
def Obligations.ReadEmitsWcr : Prop :=
  ∀ (s : State) (rx : Word),
    (∀ p : Param, exec (.read p) s = .next { s with txd := s.wcr, state := .reading }) ∧
    (s.cfg.valid = true → s.state = .idle → wordTag rx = s.cfg.tagRead → ∃ p, incomingInstr rx s = .read p)

/-- Worker dispatch (R106), for each of the twelve commands CRC32, READ_SRAM, WRITE_SRAM, READ_FLASH, WRITE_FLASH,
READ_EEPROM, WRITE_EEPROM, DUMP, ID, UNLOCK, ERASE, PROGRAM with every parameter, and for every word with one of their
twelve tags: the full word goes to `WCR`, the block is busy, and nothing else changes. The sequencer is enabled (one that has
not stopped after a fault). -/
def Obligations.WorkerCommandIsDispatched : Prop :=
  (∀ (i : Instr) (s : State), isWorkerCommand i = true → s.state = .idle →
    exec i s = .next { s with wcr := encode s.cfg i, state := .workerBusy, txd := s.cfg.busyWord }) ∧
  (∀ (s : State) (rx : Word), s.cfg.valid = true → s.state = .idle → s.cfg.workerTags.contains (wordTag rx) = true →
    ∃ t, exec (incomingInstr rx s) s = .next t ∧
      t = { s with wcr := rx, state := .workerBusy, txd := s.cfg.busyWord } ∧
      (s.seqFault = none → sequencerEnabled t = true))

/-- Invalid word (R107): in `Idle` every word that has none of the fifteen tags and is not `NOP_WORD` is read as invalid, the
two status sentinels under `CFG0` among them; it is logged, and otherwise has the effect of NOP. -/
def Obligations.InvalidWordIsLoggedAndIgnored : Prop :=
  (∀ (s : State) (w : Word),
    (s.state = .idle → wordTag w ∉ s.cfg.tags → w ≠ s.cfg.nopWord → incomingInstr w s = .invalid w) ∧
    exec (.invalid w) s =
      .next { s with history := .diag (.invalidCommand w) :: s.history, txd := s.cfg.idleWord }) ∧
  decodeIdle Cfg.cfg0 Cfg.cfg0.idleWord = .invalid Cfg.cfg0.idleWord ∧
  decodeIdle Cfg.cfg0 Cfg.cfg0.busyWord = .invalid Cfg.cfg0.busyWord

/-- The `Uploading` step (R108): every word is payload; it is stored at `Buf32[OFF]` while `OFF < LEN`; when the count is
complete the block is `Idle`. Two clauses are decisions of the spec: with a count of 0 the word is dropped (D9), and past the
Buffer it is the fault, with which the FSM stops and nothing else of the block changes (R55, D7). How the stop and the fault
are held is the model's choice (log 11). -/
def Obligations.UploadingStepResult : Prop :=
  ∀ (s : State) (w : Word), s.state = .uploading →
    incomingInstr w s = .uploadingStep w ∧
    (s.off < s.len → s.off.toNat < 32768 →
      exec (.uploadingStep w) s =
        .next { s with
          buf := setBuf32 s.buf s.off.toNat w
          off := s.off + 1
          state := if s.off + 1 < s.len then .uploading else .idle
          txd := s.cfg.idleWord }) ∧
    (s.off < s.len → 32768 ≤ s.off.toNat →
      exec (.uploadingStep w) s = .fault (.bufferRange s.off.toNat
        { s with fsmFault := some s.off.toNat, faults := s.off.toNat :: s.faults })) ∧
    (¬ s.off < s.len → exec (.uploadingStep w) s = .next { s with state := .idle, txd := s.cfg.idleWord })

/-- Which bytes an `Uploading` step stores (R51, R54, R108): the four bytes of the word, least significant first, at
`4*OFF`; every other byte of the Buffer reads as before. -/
def Obligations.UploadingStepStoresFourBytes : Prop :=
  ∀ (s : State) (w : Word), Memory.wf s.buf = true → s.off < s.len → s.off.toNat < 32768 →
    ∃ t, exec (.uploadingStep w) s = .next t ∧ Memory.wf t.buf = true ∧
      (∀ k < 4, Memory.read t.buf (4 * s.off.toNat + k) = w.extractLsb' (8 * k) 8) ∧
      (∀ a, (a < 4 * s.off.toNat ∨ 4 * s.off.toNat + 4 ≤ a) → Memory.read t.buf a = Memory.read s.buf a)

/-- The `Downloading` step (R109): the next word, or back to `Idle`; the incoming word is ignored. Past the Buffer it is the
fault, with which the FSM stops and nothing else of the block changes (R55, D7; log 11). -/
def Obligations.DownloadingStepResult : Prop :=
  ∀ (s : State) (w : Word),
    (s.state = .downloading → incomingInstr w s = .downloadingStep w) ∧
    (s.off < s.len → s.off.toNat < 32768 →
      exec (.downloadingStep w) s = .next { s with txd := buf32 s.buf s.off.toNat, off := s.off + 1 }) ∧
    (s.off < s.len → 32768 ≤ s.off.toNat →
      exec (.downloadingStep w) s = .fault (.bufferRange s.off.toNat
        { s with fsmFault := some s.off.toNat, faults := s.off.toNat :: s.faults })) ∧
    (¬ s.off < s.len → exec (.downloadingStep w) s = .next { s with state := .idle, txd := s.cfg.idleWord })

/-- The `Reading` step (R110): whatever word comes, back to `Idle`; a command sent in this exchange is lost. -/
def Obligations.ReadingStepReturnsToIdle : Prop :=
  ∀ (s : State) (w : Word),
    exec (.readingStep w) s = .next { s with state := .idle, txd := s.cfg.idleWord } ∧
    (s.state = .reading → incomingInstr w s = .readingStep w)

/-- The `WorkerBusy` step (R111): whatever word comes, `BUSY_WORD`, and nothing else changes; every command is lost. -/
def Obligations.WorkerBusyStepAnswersBusy : Prop :=
  ∀ (s : State) (w : Word),
    exec (.workerBusyStep w) s = .next { s with txd := s.cfg.busyWord } ∧
    (s.state = .workerBusy → incomingInstr w s = .workerBusyStep w)

/-! ### The sequencer's micro-steps (`spec/41_worker_crc32.md`, `42_flash_sequencer.md`, `43_save_commands.md`) -/

/-- Start (R131): each operation takes its command from `WCR` and goes to its first position; a byte loop of length 0
has no byte (R138, R180, R181, R183, R185), a transaction is made all the same. That start is a micro-step of its own,
and the defaults of the locals, are the model's choice (log 12). -/
def Obligations.OperationStart : Prop :=
  ∀ (s : State) (p : Param), s.state = .workerBusy → s.seq = .idle →
    exec (.crc32 p) s = .next { s with
      crcacc := 0xFFFFFFFF, seq := .running s.wcr (if p = 0 then .writeResult else .crcByte) { n := p } } ∧
    exec (.readSram p) s =
      .next { s with seq := .running s.wcr (if p = 0 then .release else .readSramByte) { n := p } } ∧
    exec (.writeSram p) s =
      .next { s with seq := .running s.wcr (if p = 0 then .release else .writeSramByte) { n := p } } ∧
    exec (.readFlash p) s = .next { s with seq := .running s.wcr (.readFlash .transfer) { n := p } } ∧
    exec (.writeFlash p) s =
      .next { s with seq := .running s.wcr (.writeFlash (if p = 0 then .transfer else .gather)) { n := p } } ∧
    exec (.readEeprom p) s = .next { s with seq := .running s.wcr (.readEeprom .transfer) { n := p } } ∧
    exec (.writeEeprom p) s =
      .next { s with seq := .running s.wcr (.writeEeprom (if p = 0 then .transfer else .gather)) { n := p } } ∧
    exec (.dump p) s = .next { s with seq := .running s.wcr .dumpHalfword { a := flashAddress s.cfg p } } ∧
    exec (.id p) s = .next { s with seq := .running s.wcr (.id .command) { a := flashAddress s.cfg p } } ∧
    exec (.unlock p) s = .next { s with seq := .running s.wcr (.unlock .setup) { a := flashAddress s.cfg p } } ∧
    exec (.erase p) s = .next { s with seq := .running s.wcr (.erase .setup) { a := flashAddress s.cfg p } } ∧
    exec (.program p) s = .next { s with seq := .running s.wcr (.program .ready) { a := flashAddress s.cfg p } }

/-- Completion (R73, R132), for every operation: first the result is written into `WCR`, then `STATE` becomes `Idle` and the
sequencer is at rest; `TXD` is not touched. And there is no other way: whatever step leaves `WorkerBusy` for `Idle` is the
reset event or that last write, and an operation that has a result comes to its last write only through the write of that
result. The second and third clause are over every step under the invariant, the one that faults included. That the two
writes are micro-steps with a position each, and that the result waits in a local, is the model's choice (log 12). -/
def Obligations.CompletionWritesResultThenState : Prop :=
  (∀ (i : Instr) (s : State) (cmd : Word) (l : SeqLocals), isSequencerInstr i = true → s.state = .workerBusy →
    (s.seq = .running cmd .writeResult l →
      exec i s = .next { s with wcr := l.result, seq := .running cmd .release l }) ∧
    (s.seq = .running cmd .release l → exec i s = .next { s with state := .idle, seq := .idle })) ∧
  (∀ s t : State, Inv s → stateAfter s = some t → s.state = .workerBusy → t.state = .idle →
    (∃ rest, s.inputs = .reset :: rest) ∨ (∃ cmd l, s.seq = .running cmd .release l ∧ t.wcr = s.wcr)) ∧
  (∀ (s t : State) (cmd : Word) (l : SeqLocals), Inv s → stateAfter s = some t → t.seq = .running cmd .release l →
    s.seq = .running cmd .release l ∨
    (s.seq = .running cmd .writeResult l ∧ t.wcr = l.result) ∨
    mustWriteResult (decodeWorker s.cfg cmd) l.outcome = false)

/-- CRC32's micro-step (R137, R138): one Buffer byte is folded into `CRCACC`; after the last the complement is the result;
a byte past the Buffer is the fault, with which the sequencer stops and nothing else changes (R55, D7; log 11). -/
def Obligations.Crc32FoldsOneByte : Prop :=
  ∀ (s : State) (p : Param) (cmd : Word) (l : SeqLocals), s.state = .workerBusy → s.seq = .running cmd .crcByte l →
    (l.i < 131072 → l.i + 1 < l.n.toNat →
      exec (.crc32 p) s = .next { s with
        crcacc := crcUpdate s.crcacc (buf8 s.buf l.i), seq := .running cmd .crcByte { l with i := l.i + 1 } }) ∧
    (l.i < 131072 → l.n.toNat ≤ l.i + 1 →
      exec (.crc32 p) s = .next { s with
        crcacc := crcUpdate s.crcacc (buf8 s.buf l.i)
        seq := .running cmd .writeResult
          { l with i := l.i + 1, result := ~~~ crcUpdate s.crcacc (buf8 s.buf l.i) } }) ∧
    (131072 ≤ l.i → exec (.crc32 p) s = .fault (.bufferRange l.i
      { s with seqFault := some l.i, faults := l.i :: s.faults }))

/-- ID's micro-steps (R152, R153): the command write, the manufacturer read at `A`, the device read at `A + 2`; the
result is both codes, and a chip that is not the recognised one is logged. That the diagnostic falls in the micro-step of the
device read (log 12), how the cartridge's answers are supplied (log 3), and the free value where the configuration gives no
recognised code (log 15) are the model's choice. -/
def Obligations.IdMicroSteps : Prop :=
  ∀ (s : State) (p : Param) (cmd : Word) (l : SeqLocals), s.state = .workerBusy →
    (s.seq = .running cmd (.id .command) l →
      exec (.id p) s = .next { s with
        history := .w16 l.a s.cfg.fcReadId :: s.history, seq := .running cmd (.id .manufacturer) l }) ∧
    (s.seq = .running cmd (.id .manufacturer) l → ∃ m, m = cartValue16 l.a s ∧
      exec (.id p) s = .next { s with
        cart16 := s.cart16.tail, draws := s.draws + 1, history := .r16 l.a m :: s.history
        seq := .running cmd (.id .device) { l with code := m } }) ∧
    (s.seq = .running cmd (.id .device) l → ∃ (d : Halfword) (code : Word),
      d = cartValue16 (l.a + 2) s ∧ code = l.code ++ d ∧
      exec (.id p) s = .next { s with
        cart16 := s.cart16.tail, draws := s.draws + 1
        history := (if code ≠ s.cfg.idExpected.getD Config.idExpected then [.diag (.unsupportedChip code)] else []) ++
          .r16 (l.a + 2) d :: s.history
        seq := .running cmd .writeResult { l with result := code } })

/-- UNLOCK's and ERASE's micro-steps (R151, R154, R155, R161): the two writes at `A`, then one status read a step; the read
with the ready bit set ends the poll and is the result, widened with zeros; any other read leaves the poll where it is. How
the cartridge's answers are supplied is the model's choice (log 3). -/
def Obligations.UnlockAndEraseMicroSteps : Prop :=
  ∀ (s : State) (p : Param) (cmd : Word) (l : SeqLocals), s.state = .workerBusy →
    (s.seq = .running cmd (.unlock .setup) l →
      exec (.unlock p) s = .next { s with
        history := .w16 l.a s.cfg.fcClearLock :: s.history, seq := .running cmd (.unlock .confirm) l }) ∧
    (s.seq = .running cmd (.unlock .confirm) l →
      exec (.unlock p) s = .next { s with
        history := .w16 l.a s.cfg.fcConfirm :: s.history, seq := .running cmd (.unlock .poll) l }) ∧
    (s.seq = .running cmd (.erase .setup) l →
      exec (.erase p) s = .next { s with
        history := .w16 l.a s.cfg.fcErase :: s.history, seq := .running cmd (.erase .confirm) l }) ∧
    (s.seq = .running cmd (.erase .confirm) l →
      exec (.erase p) s = .next { s with
        history := .w16 l.a s.cfg.fcConfirm :: s.history, seq := .running cmd (.erase .poll) l }) ∧
    (∀ v, v = cartValue16 l.a s → (v &&& s.cfg.srReady) ≠ 0 →
      (s.seq = .running cmd (.unlock .poll) l →
        exec (.unlock p) s = .next { s with
          cart16 := s.cart16.tail, draws := s.draws + 1, history := .r16 l.a v :: s.history
          seq := .running cmd .writeResult { l with status := v, result := v.setWidth 32 } }) ∧
      (s.seq = .running cmd (.erase .poll) l →
        exec (.erase p) s = .next { s with
          cart16 := s.cart16.tail, draws := s.draws + 1, history := .r16 l.a v :: s.history
          seq := .running cmd .writeResult { l with status := v, result := v.setWidth 32 } })) ∧
    (∀ v, v = cartValue16 l.a s → (v &&& s.cfg.srReady) = 0 →
      (s.seq = .running cmd (.unlock .poll) l →
        exec (.unlock p) s = .next { s with
          cart16 := s.cart16.tail, draws := s.draws + 1, history := .r16 l.a v :: s.history
          seq := .running cmd (.unlock .poll) { l with status := v } }) ∧
      (s.seq = .running cmd (.erase .poll) l →
        exec (.erase p) s = .next { s with
          cart16 := s.cart16.tail, draws := s.draws + 1, history := .r16 l.a v :: s.history
          seq := .running cmd (.erase .poll) { l with status := v } }))

/-- PROGRAM's micro-steps in one chunk (R157): the command, the count, one data word a step, the confirm word. -/
def Obligations.ProgramWritesOneChunk : Prop :=
  ∀ (s : State) (p : Param) (cmd : Word) (l : SeqLocals) (ak : Word), s.state = .workerBusy →
    ak = l.a + BitVec.ofNat 32 (l.k * s.cfg.wbHalfwords * 2) →
    (s.seq = .running cmd (.program .command) l →
      exec (.program p) s = .next { s with
        history := .w16 ak s.cfg.fcWriteBuffer :: s.history, seq := .running cmd (.program .count) l }) ∧
    (s.seq = .running cmd (.program .count) l →
      exec (.program p) s = .next { s with
        history := .w16 ak (BitVec.ofNat 16 (s.cfg.wbHalfwords - 1)) :: s.history
        seq := .running cmd (.program .data) { l with j := 0 } }) ∧
    (s.seq = .running cmd (.program .data) l → l.k * s.cfg.wbHalfwords + l.j < 65536 →
      exec (.program p) s = .next { s with
        history := .w16 (ak + BitVec.ofNat 32 (2 * l.j)) (buf16 s.buf (l.k * s.cfg.wbHalfwords + l.j)) :: s.history
        seq := .running cmd (.program (if l.j + 1 < s.cfg.wbHalfwords then .data else .confirm))
          { l with j := l.j + 1 } }) ∧
    (s.seq = .running cmd (.program .confirm) l →
      exec (.program p) s = .next { s with
        history := .w16 ak s.cfg.fcConfirm :: s.history, seq := .running cmd (.program .verdict) l })

/-- PROGRAM's polls (R151, R157, R159): the opening poll leads to the chunk's command; the closing poll ends the
operation if its status is not exactly `SR_OK` or the chunk is the last, else it leads to the next chunk; a status
without the ready bit leaves the poll where it is. That `ChunkFailed` means exactly that is the reading of log 16; how the
cartridge's answers are supplied is the model's choice (log 3). -/
def Obligations.ProgramPollsAndAborts : Prop :=
  ∀ (s : State) (p : Param) (cmd : Word) (l : SeqLocals) (ak : Word) (v : Halfword) (t : State), s.state = .workerBusy →
    ak = l.a + BitVec.ofNat 32 (l.k * s.cfg.wbHalfwords * 2) → v = cartValue16 ak s →
    t = { s with cart16 := s.cart16.tail, draws := s.draws + 1, history := .r16 ak v :: s.history } →
    (s.seq = .running cmd (.program .ready) l →
      exec (.program p) s = .next { t with
        seq := .running cmd (.program (if (v &&& s.cfg.srReady) ≠ 0 then .command else .ready))
          { l with status := v } }) ∧
    (s.seq = .running cmd (.program .verdict) l → (v &&& s.cfg.srReady) = 0 →
      exec (.program p) s = .next { t with seq := .running cmd (.program .verdict) { l with status := v } }) ∧
    (s.seq = .running cmd (.program .verdict) l → (v &&& s.cfg.srReady) ≠ 0 →
      (v ≠ s.cfg.srOk ∨ 65536 / s.cfg.wbHalfwords ≤ l.k + 1) →
      exec (.program p) s = .next { t with
        seq := .running cmd .writeResult { l with status := v, result := v.setWidth 32 } }) ∧
    (s.seq = .running cmd (.program .verdict) l → (v &&& s.cfg.srReady) ≠ 0 →
      v = s.cfg.srOk → l.k + 1 < 65536 / s.cfg.wbHalfwords →
      exec (.program p) s = .next { t with
        seq := .running cmd (.program .ready) { l with status := v, k := l.k + 1, j := 0 } })

/-- DUMP's micro-step (R51, R160): the flash is read at `A + 2*j` and the value is `Buf16[j]`; every other byte of the
Buffer reads as before; after the last halfword the operation is done, without a result. How the cartridge's answers are
supplied is the model's choice (log 3). -/
def Obligations.DumpCopiesOneHalfword : Prop :=
  ∀ (s : State) (p : Param) (cmd : Word) (l : SeqLocals) (a : Word) (v : Halfword),
    s.state = .workerBusy → s.seq = .running cmd .dumpHalfword l → l.j < 65536 → Memory.wf s.buf = true →
    a = l.a + BitVec.ofNat 32 (2 * l.j) → v = cartValue16 a s →
    ∃ m, exec (.dump p) s = .next { s with
        buf := m, cart16 := s.cart16.tail, draws := s.draws + 1, history := .r16 a v :: s.history
        seq := .running cmd (if l.j + 1 < 65536 then .dumpHalfword else .release) { l with j := l.j + 1 } } ∧
      Memory.wf m = true ∧ buf16 m l.j = v ∧
      (∀ x, x ≠ 2 * l.j → x ≠ 2 * l.j + 1 → Memory.read m x = Memory.read s.buf x)

/-- READ_SRAM's micro-step (R180, R227): the save RAM is read at `SRAM_BASE + i` and the value is `Buf8[i]`; every other
byte reads as before. Past the Buffer the cartridge read is issued and recorded, and the write is the fault (R227), with which
the sequencer stops (D7; log 11). How the cartridge's answers are supplied is the model's choice (log 3). -/
def Obligations.ReadSramCopiesOneByte : Prop :=
  ∀ (s : State) (p : Param) (cmd : Word) (l : SeqLocals) (a : Word) (v : Byte),
    s.state = .workerBusy → s.seq = .running cmd .readSramByte l → Memory.wf s.buf = true →
    a = s.cfg.sramBase + BitVec.ofNat 32 l.i → v = cartValue8 a s →
    (l.i < 131072 → ∃ m, exec (.readSram p) s = .next { s with
        buf := m, cart8 := s.cart8.tail, draws := s.draws + 1, history := .r8 a v :: s.history
        seq := .running cmd (if l.i + 1 < l.n.toNat then .readSramByte else .release) { l with i := l.i + 1 } } ∧
      Memory.wf m = true ∧ (∀ x, Memory.read m x = if x = l.i then v else Memory.read s.buf x)) ∧
    (131072 ≤ l.i → exec (.readSram p) s = .fault (.bufferRange l.i { s with
      cart8 := s.cart8.tail, draws := s.draws + 1, history := .r8 a v :: s.history
      seqFault := some l.i, faults := l.i :: s.faults }))

/-- WRITE_SRAM's micro-step (R181): `Buf8[i]` is written to `SRAM_BASE + i`; the Buffer is not modified; past the Buffer it
is the fault before any bus access, with which the sequencer stops and nothing else changes (R227, D7; log 11). -/
def Obligations.WriteSramWritesOneByte : Prop :=
  ∀ (s : State) (p : Param) (cmd : Word) (l : SeqLocals), s.state = .workerBusy →
    s.seq = .running cmd .writeSramByte l →
    (l.i < 131072 → exec (.writeSram p) s = .next { s with
        history := .w8 (s.cfg.sramBase + BitVec.ofNat 32 l.i) (buf8 s.buf l.i) :: s.history
        seq := .running cmd (if l.i + 1 < l.n.toNat then .writeSramByte else .release) { l with i := l.i + 1 } }) ∧
    (131072 ≤ l.i → exec (.writeSram p) s = .fault (.bufferRange l.i
      { s with seqFault := some l.i, faults := l.i :: s.faults }))

/-- READ_FLASH's and READ_EEPROM's transaction (R182, R184, R186): while it has not ended the operation stays; when it
ends it is recorded with its kind, length, bytes and outcome, and the bytes are copied next; with length 0 the
operation is done, an error's status being its result. How the device's answers are supplied is the model's choice
(log 4). -/
def Obligations.SaveReadTransaction : Prop :=
  ∀ (s : State) (p : Param) (cmd : Word) (l : SeqLocals) (kind : SaveKind) (i : Instr) (at_ : SaveReadPos → SeqPos),
    s.state = .workerBusy →
    ((kind = .flash ∧ i = .readFlash p ∧ at_ = .readFlash) ∨ (kind = .eeprom ∧ i = .readEeprom p ∧ at_ = .readEeprom)) →
    s.seq = .running cmd (at_ .transfer) l →
    (saveReadAnswer s = none →
      exec i s = .next { s with saveReads := s.saveReads.tail, draws := s.draws + 1 }) ∧
    (∀ ans bs, saveReadAnswer s = some ans → bs = saveReadBytes l.n ans s → ∃ pos r,
      exec i s = .next { s with
        saveReads := s.saveReads.tail, draws := s.draws + 1
        history := .saveRd kind l.n bs ans.outcome :: s.history
        seq := .running cmd pos { l with bytes := bs, outcome := ans.outcome, result := r } } ∧
      bs.length = l.n.toNat ∧
      (l.n ≠ 0 → pos = at_ .copy ∧ r = l.result) ∧
      (l.n = 0 → ans.outcome = .ok → pos = .release ∧ r = l.result) ∧
      (∀ st, l.n = 0 → ans.outcome = .error st → pos = .writeResult ∧ r = st))

/-- READ_FLASH's and READ_EEPROM's copy (R182, R184): one returned byte into `Buf8[i]`, every other byte as before;
after the last byte an error's status is the result, else there is none; past the Buffer it is the fault, with which the
sequencer stops and nothing else changes (R227, D7; log 11). That the copy takes a micro-step a byte is the model's choice
(log 12). -/
def Obligations.SaveReadCopiesOneByte : Prop :=
  ∀ (s : State) (p : Param) (cmd : Word) (l : SeqLocals) (i : Instr) (at_ : SaveReadPos → SeqPos) (b : Byte)
    (rest : List Byte),
    s.state = .workerBusy →
    ((i = .readFlash p ∧ at_ = .readFlash) ∨ (i = .readEeprom p ∧ at_ = .readEeprom)) →
    s.seq = .running cmd (at_ .copy) l → l.bytes = b :: rest → Memory.wf s.buf = true →
    (l.i < 131072 → ∃ m pos r, exec i s = .next { s with
        buf := m, seq := .running cmd pos { l with bytes := rest, i := l.i + 1, result := r } } ∧
      Memory.wf m = true ∧ (∀ x, Memory.read m x = if x = l.i then b else Memory.read s.buf x) ∧
      (rest ≠ [] → pos = at_ .copy ∧ r = l.result) ∧
      (rest = [] → l.outcome = .ok → pos = .release ∧ r = l.result) ∧
      (∀ st, rest = [] → l.outcome = .error st → pos = .writeResult ∧ r = st)) ∧
    (131072 ≤ l.i → exec i s = .fault (.bufferRange l.i
      { s with seqFault := some l.i, faults := l.i :: s.faults }))

/-- WRITE_FLASH's and WRITE_EEPROM's micro-steps (R183, R185, R186): one Buffer byte gathered a step, the fault past
the Buffer before any transaction, with which the sequencer stops and nothing else changes (R227, D7; log 11); then the
transaction, which may not have ended; an error's status is the result, else there is none. The Buffer is not modified.
That the gathering takes a micro-step a byte (log 12), and how the device answers (log 4), are the model's choice. -/
def Obligations.SaveWriteMicroSteps : Prop :=
  ∀ (s : State) (p : Param) (cmd : Word) (l : SeqLocals) (kind : SaveKind) (i : Instr) (at_ : SaveWritePos → SeqPos),
    s.state = .workerBusy →
    ((kind = .flash ∧ i = .writeFlash p ∧ at_ = .writeFlash) ∨
      (kind = .eeprom ∧ i = .writeEeprom p ∧ at_ = .writeEeprom)) →
    (s.seq = .running cmd (at_ .gather) l → l.i < 131072 →
      exec i s = .next { s with
        seq := .running cmd (at_ (if l.i + 1 < l.n.toNat then .gather else .transfer))
          { l with bytes := l.bytes ++ [buf8 s.buf l.i], i := l.i + 1 } }) ∧
    (s.seq = .running cmd (at_ .gather) l → 131072 ≤ l.i → exec i s = .fault (.bufferRange l.i
      { s with seqFault := some l.i, faults := l.i :: s.faults })) ∧
    (s.seq = .running cmd (at_ .transfer) l → saveWriteAnswer s = none →
      exec i s = .next { s with saveWrites := s.saveWrites.tail, draws := s.draws + 1 }) ∧
    (s.seq = .running cmd (at_ .transfer) l → saveWriteAnswer s = some .ok →
      exec i s = .next { s with
        saveWrites := s.saveWrites.tail, draws := s.draws + 1
        history := .saveWr kind l.n l.bytes .ok :: s.history
        seq := .running cmd .release { l with outcome := .ok } }) ∧
    (∀ st, s.seq = .running cmd (at_ .transfer) l → saveWriteAnswer s = some (.error st) →
      exec i s = .next { s with
        saveWrites := s.saveWrites.tail, draws := s.draws + 1
        history := .saveWr kind l.n l.bytes (.error st) :: s.history
        seq := .running cmd .writeResult { l with outcome := .error st, result := st } })

/-- The sequencer's default arm (R187): a command with none of the twelve tags is read as it; it starts, logs the command, and
completes without a result; `WCR` is unchanged and `STATE` is `Idle` at the end, which is the spec's own inference (D20). The
start and the diagnostic as micro-steps of their own are the model's choice (log 12). -/
def Obligations.UnrecognisedCommandIsLoggedAndReleased : Prop :=
  ∀ (s : State) (t : Byte) (p : Param) (cmd : Word) (l : SeqLocals),
    (s.cfg.workerTags.contains t = false → decodeWorker s.cfg (commandWord t p) = .unrecognisedWorker t p) ∧
    (s.seq = .idle → exec (.unrecognisedWorker t p) s =
      .next { s with seq := .running s.wcr .logUnrecognised {} }) ∧
    (s.seq = .running cmd .logUnrecognised l → exec (.unrecognisedWorker t p) s =
      .next { s with
        history := .diag (.unrecognisedWorkerCommand (t ++ p)) :: s.history, seq := .running cmd .release l }) ∧
    (s.seq = .running cmd .release l → exec (.unrecognisedWorker t p) s =
      .next { s with state := .idle, seq := .idle })

/-! ### Whole operations: from dispatch to completion, the sequencer running alone (R133, R269)

The number of micro-steps counts the start, the result and the release as one each (log 12); that the sequencer moves while
the list of moves is empty is log 2; the answers in store are log 3 and log 4. For a byte length past the Buffer a second
clause says where the run faults and what it leaves (R227, D7; log 11). -/

/-- CRC32 (R135, R138): after the start, `n` bytes and the two writes of completion, `WCR` is the CRC-32 of the first `n`
Buffer bytes; the Buffer, `TXD`, `LEN` and `OFF` are unchanged. With `n` past the Buffer all its bytes are folded, the fault
is raised at byte 131072, the sequencer stops there, and `WCR` keeps the command (R227; log 11). The two CRC values that the
source states (R139 b) are met. That the start takes a micro-step, the result and the release one each, is the model's choice
(log 12), and so is that the sequencer moves while the list of moves is empty (log 2). -/
def Obligations.Crc32RunGivesCrc : Prop :=
  (∀ (s : State) (n : Param), s.cfg.valid = true → s.state = .workerBusy → s.seq = .idle → s.seqFault = none →
    s.inputs = [] → s.wcr = commandWord s.cfg.tagCrc32 n →
    (n.toNat ≤ 131072 → core.run (n.toNat + 3) s = .next { s with
      state := .idle, wcr := crc32 (bufferBytes s.buf n.toNat), crcacc := ~~~ crc32 (bufferBytes s.buf n.toNat) }) ∧
    (131072 < n.toNat → core.run 131074 s = .fault (.bufferRange 131072 { s with
      crcacc := ~~~ crc32 (bufferBytes s.buf 131072), seq := .running s.wcr .crcByte { n := n, i := 131072 }
      seqFault := some 131072, faults := 131072 :: s.faults }))) ∧
  crc32 [] = 0x00000000 ∧ crc32 [0x31, 0x32, 0x33, 0x34, 0x35, 0x36, 0x37, 0x38, 0x39] = 0xCBF43926

/-- ID (R135, R152): the three bus events in order, and both codes in `WCR`. The count of six micro-steps is the model's
choice (log 12), and so are how the answers are supplied (log 3) and the turn of the sequencer on an empty list (log 2). -/
def Obligations.IdRunGivesBothCodes : Prop :=
  ∀ (s : State) (p : Param) (m d : Halfword) (rest : List Halfword) (a : Word), s.cfg.valid = true →
    s.state = .workerBusy → s.seq = .idle → s.seqFault = none → s.inputs = [] → s.wcr = commandWord s.cfg.tagId p →
    s.cart16 = m :: d :: rest → a = s.cfg.romBase + p.setWidth 32 * 256 →
    ∃ t, core.run 6 s = .next t ∧ t.state = .idle ∧ t.seq = .idle ∧ t.wcr = m ++ d ∧ t.buf = s.buf ∧ t.txd = s.txd ∧
      t.len = s.len ∧ t.off = s.off ∧ t.cart16 = rest ∧
      busEvents t.history = .r16 (a + 2) d :: .r16 a m :: .w16 a s.cfg.fcReadId :: busEvents s.history

/-- UNLOCK and ERASE (R151, R154, R155, R161): the two writes, as many status reads as the cartridge takes to report ready,
and the status that ended the poll in `WCR`. The count of micro-steps (log 12), how the answers are supplied (log 3) and the
turn of the sequencer on an empty list (log 2) are the model's choice. -/
def Obligations.UnlockAndEraseRunGiveStatus : Prop :=
  ∀ (s : State) (p : Param) (tag : Byte) (code : Halfword) (busy : List Halfword) (v : Halfword) (rest : List Halfword)
    (a : Word), s.cfg.valid = true → s.state = .workerBusy → s.seq = .idle → s.seqFault = none → s.inputs = [] →
    ((tag = s.cfg.tagUnlock ∧ code = s.cfg.fcClearLock) ∨ (tag = s.cfg.tagErase ∧ code = s.cfg.fcErase)) →
    s.wcr = commandWord tag p → a = s.cfg.romBase + p.setWidth 32 * 256 →
    s.cart16 = busy ++ v :: rest → (∀ b ∈ busy, (b &&& s.cfg.srReady) = 0) → (v &&& s.cfg.srReady) ≠ 0 →
    core.run (busy.length + 6) s = .next { s with
      state := .idle, wcr := v.setWidth 32, cart16 := rest, draws := s.draws + busy.length + 1
      history := .r16 a v :: (busy.reverse.map fun b => .r16 a b) ++
        .w16 a s.cfg.fcConfirm :: .w16 a code :: s.history }

/-- A cartridge that never reports ready (R151, R225), at the poll of UNLOCK, at the poll of ERASE and at either poll of
PROGRAM: the poll goes on for as many steps as it has answers, the block stays in `WorkerBusy` with its `WCR`, and no fault is
raised. The same where a save transaction does not end (R186, R225). How the answers are supplied (log 3, log 4) and the turn
of the sequencer on an empty list (log 2) are the model's choice. -/
def Obligations.UnreadyPollNeverCompletes : Prop :=
  ∀ (s : State) (p : Param) (cmd : Word) (pos : SeqPos) (l : SeqLocals), s.cfg.valid = true →
    s.state = .workerBusy → s.seqFault = none → s.inputs = [] → s.seq = .running cmd pos l →
    (∀ busy rest : List Halfword,
      ((cmd = commandWord s.cfg.tagUnlock p ∧ pos = .unlock .poll) ∨
        (cmd = commandWord s.cfg.tagErase p ∧ pos = .erase .poll) ∨
        (cmd = commandWord s.cfg.tagProgram p ∧ (pos = .program .ready ∨ pos = .program .verdict))) →
      s.cart16 = busy ++ rest → (∀ b ∈ busy, (b &&& s.cfg.srReady) = 0) →
      ∃ t v, core.run busy.length s = .next t ∧ t.state = .workerBusy ∧ t.wcr = s.wcr ∧ t.buf = s.buf ∧ t.txd = s.txd ∧
        t.seq = .running cmd pos { l with status := v } ∧ t.seqFault = none ∧ t.faults = s.faults ∧ t.cart16 = rest) ∧
    (∀ (m : Nat) (rest : List (Option SaveReadAnswer)),
      ((cmd = commandWord s.cfg.tagReadFlash p ∧ pos = .readFlash .transfer) ∨
        (cmd = commandWord s.cfg.tagReadEeprom p ∧ pos = .readEeprom .transfer)) →
      s.saveReads = List.replicate m none ++ rest →
      core.run m s = .next { s with saveReads := rest, draws := s.draws + m }) ∧
    (∀ (m : Nat) (rest : List (Option SaveOutcome)),
      ((cmd = commandWord s.cfg.tagWriteFlash p ∧ pos = .writeFlash .transfer) ∨
        (cmd = commandWord s.cfg.tagWriteEeprom p ∧ pos = .writeEeprom .transfer)) →
      s.saveWrites = List.replicate m none ++ rest →
      core.run m s = .next { s with saveWrites := rest, draws := s.draws + m })

/-- DUMP (R135, R160): 65536 reads at ascending addresses, no write on the bus, the values in the Buffer in order, and the
command word still in `WCR`. The count of micro-steps (log 12), how the answers are supplied (log 3) and the turn of the
sequencer on an empty list (log 2) are the model's choice. -/
def Obligations.DumpRunFillsBuffer : Prop :=
  ∀ (s : State) (p : Param) (vs rest : List Halfword) (a : Word), s.cfg.valid = true →
    s.state = .workerBusy → s.seq = .idle → s.seqFault = none → s.inputs = [] → s.wcr = commandWord s.cfg.tagDump p →
    a = s.cfg.romBase + p.setWidth 32 * 256 → s.cart16 = vs ++ rest → vs.length = 65536 →
    core.run 65538 s = .next { s with
      state := .idle, buf := setHalfwords s.buf 0 vs, cart16 := rest, draws := s.draws + 65536
      history := (vs.mapIdx fun j v => .r16 (a + BitVec.ofNat 32 (2 * j)) v).reverse ++ s.history }

/-- READ_SRAM (R135, R180): `n` reads at ascending addresses, the bytes in the Buffer from byte 0 on, `WCR` unchanged. With
`n` past the Buffer 131073 reads are issued, 131072 bytes are copied, and the fault is raised at byte 131072, where the
sequencer stops (R227, D7; log 11). The count of micro-steps (log 12), how the answers are supplied (log 3) and the turn of
the sequencer on an empty list (log 2) are the model's choice. -/
def Obligations.ReadSramRunFillsBuffer : Prop :=
  ∀ (s : State) (n : Param) (bs rest : List Byte), s.cfg.valid = true →
    s.state = .workerBusy → s.seq = .idle → s.seqFault = none → s.inputs = [] →
    s.wcr = commandWord s.cfg.tagReadSram n → s.cart8 = bs ++ rest →
    (n.toNat ≤ 131072 → bs.length = n.toNat → core.run (n.toNat + 2) s = .next { s with
      state := .idle, buf := setBytes s.buf 0 bs, cart8 := rest, draws := s.draws + n.toNat
      history := (bs.mapIdx fun i b => .r8 (s.cfg.sramBase + BitVec.ofNat 32 i) b).reverse ++ s.history }) ∧
    (131072 < n.toNat → bs.length = 131073 → core.run 131074 s = .fault (.bufferRange 131072 { s with
      buf := setBytes s.buf 0 (bs.take 131072), cart8 := rest, draws := s.draws + 131073
      history := (bs.mapIdx fun i b => .r8 (s.cfg.sramBase + BitVec.ofNat 32 i) b).reverse ++ s.history
      seq := .running s.wcr .readSramByte { n := n, i := 131072 }
      seqFault := some 131072, faults := 131072 :: s.faults }))

/-- WRITE_SRAM (R135, R181): the first `n` Buffer bytes go to ascending addresses; the Buffer and `WCR` are unchanged. With
`n` past the Buffer all its bytes are written to the cartridge, and the fault is raised at byte 131072, where the sequencer
stops (R227, D7; log 11). The count of micro-steps (log 12) and the turn of the sequencer on an empty list (log 2) are the
model's choice. -/
def Obligations.WriteSramRunWritesBuffer : Prop :=
  ∀ (s : State) (n : Param), s.cfg.valid = true →
    s.state = .workerBusy → s.seq = .idle → s.seqFault = none → s.inputs = [] →
    s.wcr = commandWord s.cfg.tagWriteSram n →
    (n.toNat ≤ 131072 → core.run (n.toNat + 2) s = .next { s with
      state := .idle
      history := ((bufferBytes s.buf n.toNat).mapIdx fun i b =>
        .w8 (s.cfg.sramBase + BitVec.ofNat 32 i) b).reverse ++ s.history }) ∧
    (131072 < n.toNat → core.run 131074 s = .fault (.bufferRange 131072 { s with
      history := ((bufferBytes s.buf 131072).mapIdx fun i b =>
        .w8 (s.cfg.sramBase + BitVec.ofNat 32 i) b).reverse ++ s.history
      seq := .running s.wcr .writeSramByte { n := n, i := 131072 }
      seqFault := some 131072, faults := 131072 :: s.faults }))

/-- READ_FLASH and READ_EEPROM (R135, R182, R184, R186): one transaction, the returned bytes in the Buffer from byte 0 on;
`WCR` keeps the command word on `Ok` and takes the status on an error. With `n` past the Buffer the transaction is made,
131072 bytes are copied, and the fault is raised at byte 131072, where the sequencer stops (R227, D7; log 11). The count of
micro-steps (log 12), how the device's answers are supplied (log 4) and the turn of the sequencer on an empty list (log 2) are
the model's choice. -/
def Obligations.SaveReadRunFillsBuffer : Prop :=
  ∀ (s : State) (n : Param) (kind : SaveKind) (tag : Byte) (copy : SeqPos) (ans : SaveReadAnswer)
    (rest : List (Option SaveReadAnswer)), s.cfg.valid = true →
    s.state = .workerBusy → s.seq = .idle → s.seqFault = none → s.inputs = [] →
    ((kind = .flash ∧ tag = s.cfg.tagReadFlash ∧ copy = .readFlash .copy) ∨
      (kind = .eeprom ∧ tag = s.cfg.tagReadEeprom ∧ copy = .readEeprom .copy)) →
    s.wcr = commandWord tag n → s.saveReads = some ans :: rest → ans.bytes.length = n.toNat →
    (n.toNat ≤ 131072 → core.run (n.toNat + (if ans.outcome = .ok then 3 else 4)) s = .next { s with
      state := .idle, buf := setBytes s.buf 0 ans.bytes, saveReads := rest, draws := s.draws + 1
      wcr := match ans.outcome with | .ok => s.wcr | .error st => st
      history := .saveRd kind n ans.bytes ans.outcome :: s.history }) ∧
    (131072 < n.toNat → core.run 131075 s = .fault (.bufferRange 131072 { s with
      buf := setBytes s.buf 0 (ans.bytes.take 131072), saveReads := rest, draws := s.draws + 1
      history := .saveRd kind n ans.bytes ans.outcome :: s.history
      seq := .running s.wcr copy { n := n, i := 131072, bytes := ans.bytes.drop 131072, outcome := ans.outcome }
      seqFault := some 131072, faults := 131072 :: s.faults }))

/-- WRITE_FLASH and WRITE_EEPROM (R135, R183, R185, R186): one transaction with the first `n` Buffer bytes; `WCR` keeps the
command word on `Ok` and takes the status on an error. With `n` past the Buffer the fault is raised while the bytes are
gathered, at byte 131072, where the sequencer stops, and no transaction is made (R227, D7; log 11). The count of micro-steps
(log 12), how the device's answers are supplied (log 4) and the turn of the sequencer on an empty list (log 2) are the model's
choice. -/
def Obligations.SaveWriteRunSendsBuffer : Prop :=
  ∀ (s : State) (n : Param) (kind : SaveKind) (tag : Byte) (gather : SeqPos), s.cfg.valid = true →
    s.state = .workerBusy → s.seq = .idle → s.seqFault = none → s.inputs = [] →
    ((kind = .flash ∧ tag = s.cfg.tagWriteFlash ∧ gather = .writeFlash .gather) ∨
      (kind = .eeprom ∧ tag = s.cfg.tagWriteEeprom ∧ gather = .writeEeprom .gather)) →
    s.wcr = commandWord tag n →
    (∀ o rest, n.toNat ≤ 131072 → s.saveWrites = some o :: rest →
      core.run (n.toNat + (if o = .ok then 3 else 4)) s = .next { s with
        state := .idle, saveWrites := rest, draws := s.draws + 1
        wcr := match o with | .ok => s.wcr | .error st => st
        history := .saveWr kind n (bufferBytes s.buf n.toNat) o :: s.history }) ∧
    (131072 < n.toNat → core.run 131074 s = .fault (.bufferRange 131072 { s with
      seq := .running s.wcr gather { n := n, i := 131072, bytes := bufferBytes s.buf 131072 }
      seqFault := some 131072, faults := 131072 :: s.faults }))

/-- PROGRAM (R157 to R159): with a cartridge that answers every status read with `SR_OK` up to the closing poll of chunk
`k`, and `v` there: if `v` is not exactly `SR_OK` the operation ends at that chunk with `v` as the result and no event for a
later chunk; if it is `SR_OK` and the chunk is the last, the whole Buffer has been written and `SR_OK` is the result. The
bus events are those of the chunks, in order. That a chunk has failed exactly when its status is not `SR_OK` is the reading of
log 16; the count of micro-steps (log 12), how the answers are supplied (log 3) and the turn of the sequencer on an empty list
(log 2) are the model's choice. -/
def Obligations.ProgramRunWritesChunksInOrder : Prop :=
  ∀ (s : State) (p : Param) (k : Nat) (v : Halfword) (rest : List Halfword) (a : Word), s.cfg.valid = true →
    s.state = .workerBusy → s.seq = .idle → s.seqFault = none → s.inputs = [] → s.wcr = commandWord s.cfg.tagProgram p →
    a = s.cfg.romBase + p.setWidth 32 * 256 → k < 65536 / s.cfg.wbHalfwords → (v &&& s.cfg.srReady) ≠ 0 →
    (v ≠ s.cfg.srOk ∨ k + 1 = 65536 / s.cfg.wbHalfwords) →
    s.cart16 = List.replicate (2 * k + 1) s.cfg.srOk ++ v :: rest →
    ∃ t, core.run (3 + (k + 1) * (s.cfg.wbHalfwords + 5)) s = .next t ∧ t.state = .idle ∧ t.seq = .idle ∧
      t.wcr = v.setWidth 32 ∧ t.buf = s.buf ∧ t.txd = s.txd ∧ t.cart16 = rest ∧
      t.history = (((List.range k).flatMap fun c => chunkEvents s.cfg s.buf a c s.cfg.srOk s.cfg.srOk) ++
        chunkEvents s.cfg s.buf a k s.cfg.srOk v).reverse ++ s.history

/-! ### The machine -/

/-- A step with an exchange runs the decoded instruction (R62, R81, R100): the host receives the old `TXD`, whatever the
word it sends, and the FSM runs what `STATE` and the word select. The FSM has not stopped after a fault; what an exchange with
one that has gives is in `FaultOnlyAtTheEndOfTheBuffer`. -/
def Obligations.StepRunsIncomingInstruction : Prop :=
  ∀ (s : State) (rx : Word) (rest : List Input), s.inputs = .exchange rx :: rest → s.fsmFault = none →
    step s = exec (decodeIncoming s.cfg s.state rx) { s with inputs := rest, history := .exch rx s.txd :: s.history }

/-- A step of the sequencer runs the instruction of the latched command, exactly in `WorkerBusy` (R130, R131): `WCR`
at the start, the kept command while it runs; anywhere else, and where the sequencer has stopped after a fault (D7), nothing
moves. That moves come from a list, and that an empty list is the sequencer's turn, is the model's choice (log 2), and so is
how a stop is held (log 11). -/
def Obligations.StepRunsLatchedCommand : Prop :=
  ∀ (s : State) (rest : List Input), (s.inputs = .sequencer :: rest ∨ (s.inputs = [] ∧ rest = [])) →
    (s.state = .workerBusy → s.seqFault = none → s.seq = .idle →
      step s = exec (decodeWorker s.cfg s.wcr) { s with inputs := rest }) ∧
    (∀ cmd pos l, s.state = .workerBusy → s.seqFault = none → s.seq = .running cmd pos l →
      step s = exec (decodeWorker s.cfg cmd) { s with inputs := rest }) ∧
    (s.state ≠ .workerBusy ∨ s.seqFault ≠ none → step s = .next { s with inputs := rest })

/-- What reset leaves (R37, R250, R252). At `State.reset`: `STATE`, `LEN` and `OFF` as the source says, and `SEQ` at rest,
which is the spec's own inference (R37, from R32's invariant; D25). After the reset event from any state, in a transfer, in an
operation or after a fault: the same values; `WCR`, `TXD` and each Buffer byte are the free values of that draw; both agents
run, and the faults raised stay on record. How the draws are indexed (log 10), that a stopped agent runs again (log 22) and
the record of faults (log 11) are the model's choice. -/
def Obligations.ResetEventFromAnyState : Prop :=
  (State.reset.state = .idle ∧ State.reset.len = 0 ∧ State.reset.off = 0 ∧ State.reset.seq = .idle) ∧
  (∀ (s : State) (rest : List Input), s.inputs = .reset :: rest →
    ∃ t, step s = .next t ∧ t.state = .idle ∧ t.len = 0 ∧ t.off = 0 ∧ t.seq = .idle ∧ t.inputs = rest ∧ t.cfg = s.cfg ∧
      t.wcr = Config.resetWcr s.draws ∧ t.txd = Config.resetTxd s.draws ∧ Memory.wf t.buf = true ∧
      (∀ a < 131072, Memory.read t.buf a = Config.resetByte s.draws a) ∧ t.history = .reset :: s.history ∧
      t.fsmFault = none ∧ t.seqFault = none ∧ t.faults = s.faults)

/-- Who moves `STATE`, and where to (R39, R112): the whole transition table, over every step under the invariant, the one that
faults included. An exchange served by the FSM moves `STATE` as the tag of the word or the count of the transfer says, and
never out of `WorkerBusy`; the sequencer only moves it from `WorkerBusy` to `Idle`, at the last write of an operation; the
reset event moves it to `Idle`. An exchange with an FSM that has stopped moves nothing (log 11). -/
def Obligations.StateFollowsTheTransitionTable : Prop :=
  ∀ s t : State, Inv s → stateAfter s = some t →
    (∀ rx rest, s.inputs = .exchange rx :: rest → s.fsmFault = none →
      (s.state = .idle → t.state =
        if wordTag rx = s.cfg.tagUpload then .uploading
        else if wordTag rx = s.cfg.tagDownload then .downloading
        else if wordTag rx = s.cfg.tagRead then .reading
        else if s.cfg.workerTags.contains (wordTag rx) then .workerBusy else .idle) ∧
      (s.state = .uploading → t.state = if t.off < t.len then .uploading else .idle) ∧
      (s.state = .downloading → t.state = if s.off < s.len then .downloading else .idle) ∧
      (s.state = .reading → t.state = .idle) ∧
      (s.state = .workerBusy → t.state = .workerBusy)) ∧
    (∀ rx rest, s.inputs = .exchange rx :: rest → s.fsmFault ≠ none → t.state = s.state) ∧
    ((s.inputs = [] ∨ ∃ rest, s.inputs = .sequencer :: rest) →
      (t.state ≠ s.state → s.state = .workerBusy ∧ t.state = .idle ∧ ∃ cmd l, s.seq = .running cmd .release l) ∧
      (∀ cmd l, s.seq = .running cmd .release l → s.seqFault = none → t.state = .idle)) ∧
    (∀ rest, s.inputs = .reset :: rest → t.state = .idle)

/-- The invariant of R38, with the model's own clauses, holds right after reset. The model's clauses rest on log 7 (the
canonical form of the Buffer) and log 11 (the bound on `OFF`, the stopped agents). -/
def Obligations.InvariantAtReset : Prop := Inv State.reset

/-- Every step keeps the invariant, from every state that meets it (R38), the step that faults included. The canonical form of
the Buffer (log 7), the bound on `OFF` and where a stopped agent stands (log 11) are the model's own clauses. -/
def Obligations.InvariantKeptByEveryStep : Prop :=
  ∀ s t : State, Inv s → stateAfter s = some t → Inv t

/-- Under the invariant no step is refused (R16): every word the host can send and every micro-step has a meaning. The
refusal that exists in the model is log 14's. -/
def Obligations.NoStepIsRefused : Prop := ∀ s : State, Inv s → NeverRefuses s

/-- Where a fault can come from and what it leaves (R55, R227, D7). A running FSM faults in an exchange of a transfer with a
count above 32768 that has reached word 32768: the exchange is on record, the FSM has stopped, and nothing else has changed.
A sequencer that runs faults at byte 131072 of a byte-length command with a length above 131072: it has stopped, and nothing
else has changed but, for READ_SRAM, the cartridge read that was issued first. Nothing else raises a fault; PROGRAM, DUMP, ID,
UNLOCK, ERASE, READ and NOP cannot. An exchange with an FSM that has stopped is that fault again, with nothing delivered; that
form, and how a stop is held, is the model's choice (log 11). -/
def Obligations.FaultOnlyAtTheEndOfTheBuffer : Prop :=
  (∀ (s t : State) (i : Nat), Inv s → step s = .fault (.bufferRange i t) →
    (∃ rx rest, s.inputs = .exchange rx :: rest ∧ s.fsmFault = none ∧ i = 32768 ∧
      (s.state = .uploading ∨ s.state = .downloading) ∧ s.off = 32768 ∧ 32768 < s.len.toNat ∧
      t = { s with
        inputs := rest, history := .exch rx s.txd :: s.history, fsmFault := some 32768, faults := 32768 :: s.faults }) ∨
    (∃ rx rest, s.inputs = .exchange rx :: rest ∧ s.fsmFault = some i ∧ t = { s with inputs := rest }) ∨
    (∃ rest, (s.inputs = .sequencer :: rest ∨ (s.inputs = [] ∧ rest = [])) ∧ s.seqFault = none ∧ i = 131072 ∧
      s.state = .workerBusy ∧ 131072 < byteLengthOf (sequencerInstr s) ∧
      ((∀ n, sequencerInstr s ≠ .readSram n) →
        t = { s with inputs := rest, seqFault := some 131072, faults := 131072 :: s.faults }) ∧
      (∀ n a v, sequencerInstr s = .readSram n → a = s.cfg.sramBase + 131072 → v = cartValue8 a s →
        t = { s with
          inputs := rest, cart8 := s.cart8.tail, draws := s.draws + 1, history := .r8 a v :: s.history
          seqFault := some 131072, faults := 131072 :: s.faults }))) ∧
  (∀ (s : State) (rx : Word) (rest : List Input) (i : Nat), s.inputs = .exchange rx :: rest → s.fsmFault = some i →
    step s = .fault (.bufferRange i { s with inputs := rest }))

/-- No step changes the configuration (R15), and the history only grows (R78), also in a step that faults; no fault raised is
cleared (R12, R224). That all three stand in the state is the model's choice (log 1, log 18, log 11). -/
def Obligations.StepKeepsConfigurationAndHistory : Prop :=
  ∀ s t : State, stateAfter s = some t →
    t.cfg = s.cfg ∧ (∃ new, t.history = new ++ s.history) ∧ ∃ raised, t.faults = raised ++ s.faults

/-- The one-word lag (R62, R101): in an exchange the host receives the word the previous step loaded, and nothing else
reaches it, also where the FSM step then faults; a step without an exchange delivers nothing, and so does an exchange with an
FSM that has stopped (log 11). -/
def Obligations.ExchangeDeliversTheOldTxd : Prop :=
  ∀ s t : State, stateAfter s = some t →
    (∀ rx rest, s.inputs = .exchange rx :: rest → s.fsmFault = none →
      receivedWords t.history = s.txd :: receivedWords s.history) ∧
    (∀ rx rest, s.inputs = .exchange rx :: rest → s.fsmFault ≠ none →
      receivedWords t.history = receivedWords s.history ∧ t.txd = s.txd) ∧
    ((∀ rx rest, s.inputs ≠ .exchange rx :: rest) →
      receivedWords t.history = receivedWords s.history ∧ (t.txd = s.txd ∨ ∃ rest, s.inputs = .reset :: rest))

/-- Who writes `WCR` (R24, R38 g, R39): the FSM dispatching a worker command in `Idle`, the sequencer writing its result,
or the reset event; a step that faults does not. -/
def Obligations.OnlyDispatchAndResultWriteWcr : Prop :=
  ∀ s t : State, stateAfter s = some t → t.wcr ≠ s.wcr →
    (∃ rx rest, s.inputs = .exchange rx :: rest ∧ s.state = .idle ∧ isWorkerCommand (incomingInstr rx s) = true) ∨
    (s.state = .workerBusy ∧ (∃ cmd l, s.seq = .running cmd .writeResult l ∧ t.wcr = l.result)) ∨
    (∃ rest, s.inputs = .reset :: rest)

/-- Who writes the Buffer (R39, R71): the FSM in an `Uploading` step, the sequencer in `WorkerBusy`, or the reset event; and
the FSM in `WorkerBusy` changes nothing but `TXD` and the record of the exchange. The FSM of the second clause has not stopped
after a fault (it never has in `WorkerBusy`). -/
def Obligations.BufferWritersExcludeEachOther : Prop :=
  ∀ s t : State, stateAfter s = some t →
    (t.buf ≠ s.buf →
      (∃ rx rest, s.inputs = .exchange rx :: rest ∧ s.state = .uploading) ∨
      (s.state = .workerBusy ∧ ∀ rx rest, s.inputs ≠ .exchange rx :: rest) ∨
      (∃ rest, s.inputs = .reset :: rest)) ∧
    (∀ rx rest, s.inputs = .exchange rx :: rest → s.state = .workerBusy → s.fsmFault = none →
      t = { s with inputs := rest, txd := s.cfg.busyWord, history := .exch rx s.txd :: s.history })

/-- An exchange between two micro-steps does not change what the sequencer does (R133, R231): a micro-step after an
exchange, and the same micro-step without it, both complete or both raise the same fault, and the states they leave differ
only in `TXD` and in the record of that exchange: all other events, the diagnostics included, are the same. -/
def Obligations.ExchangeDoesNotDisturbTheSequencer : Prop :=
  ∀ (s : State) (rx : Word) (rest : List Input), Inv s → s.state = .workerBusy →
    ∃ s1, step { s with inputs := .exchange rx :: .sequencer :: rest } = .next s1 ∧
      ((∃ i t1 t2, step s1 = .fault (.bufferRange i t1) ∧
          step { s with inputs := .sequencer :: rest } = .fault (.bufferRange i t2) ∧ SameButForExchanges t1 t2) ∨
       (∃ t1 t2, step s1 = .next t1 ∧ step { s with inputs := .sequencer :: rest } = .next t2 ∧
          SameButForExchanges t1 t2))

/-- The round trip law (R113): for `1 <= N <= 32768`, uploading `N` words and downloading them returns those words as the
words received in the last `N` exchanges, whatever the host sends there, and ends in `Idle`. For `N = 0` nothing is stored:
the word after each command is dropped, and the block is in `Idle` again. The form in exchanges is what R113 derives from the
rules, and the case `N = 0` rests on the spec's decision D9. -/
def Obligations.UploadThenDownloadReturnsTheWords : Prop :=
  (∀ (s : State) (ws xs : List Word) (n : Param), s.cfg.valid = true → s.state = .idle → s.fsmFault = none →
    ws.length = n.toNat → xs.length = n.toNat → 1 ≤ n.toNat → n.toNat ≤ 32768 → Memory.wf s.buf = true →
    s.inputs = hostSends (commandWord s.cfg.tagUpload n :: ws ++ commandWord s.cfg.tagDownload n :: xs) →
    ∃ t, core.run (2 * n.toNat + 2) s = .next t ∧ t.state = .idle ∧ t.inputs = [] ∧
      (receivedWords t.history).take n.toNat = ws.reverse) ∧
  (∀ (s : State) (x y : Word), s.cfg.valid = true → s.state = .idle → s.fsmFault = none →
    s.inputs = hostSends [commandWord s.cfg.tagUpload 0, x, commandWord s.cfg.tagDownload 0, y] →
    ∃ t, core.run 4 s = .next t ∧ t.state = .idle ∧ t.inputs = [] ∧ t.buf = s.buf ∧ t.wcr = s.wcr)

/-- READ takes two exchanges (R105, R110, R262): the host receives `WCR` in the exchange after READ, whatever it sends
there, and the block is in `Idle` again with `WCR` unchanged. -/
def Obligations.ReadDeliversWcrInTheNextExchange : Prop :=
  ∀ (s : State) (p : Param) (x : Word) (rest : List Input), s.cfg.valid = true → s.state = .idle → s.fsmFault = none →
    s.inputs = .exchange (commandWord s.cfg.tagRead p) :: .exchange x :: rest →
    ∃ t, core.run 2 s = .next t ∧ t.state = .idle ∧ t.wcr = s.wcr ∧ t.inputs = rest ∧ t.txd = s.cfg.idleWord ∧
      receivedWords t.history = s.wcr :: s.txd :: receivedWords s.history

/-- The host's worker sequence (R116 e, R203) for CRC32: the command, the operation, a NOP still answered `BUSY_WORD`,
a NOP answered `IDLE_WORD`, READ, and one more exchange, which returns the CRC-32 of the Buffer's first `n` bytes. The
schedule is one of those the spec allows, given as the model's list of moves (log 2); that the operation takes `n + 3`
micro-steps is the model's choice (log 12). -/
def Obligations.WorkerSequenceReturnsTheCrc : Prop :=
  ∀ (s : State) (n : Param) (x : Word), s.cfg.valid = true → s.state = .idle → s.seq = .idle → s.fsmFault = none →
    s.seqFault = none → n.toNat ≤ 131072 →
    s.inputs = .exchange (commandWord s.cfg.tagCrc32 n) :: List.replicate (n.toNat + 3) .sequencer ++
      hostSends [s.cfg.nopWord, s.cfg.nopWord, commandWord s.cfg.tagRead 0, x] →
    ∃ t, core.run (n.toNat + 8) s = .next t ∧ t.state = .idle ∧
      receivedWords t.history = crc32 (bufferBytes s.buf n.toNat) :: s.cfg.idleWord :: s.cfg.idleWord ::
        s.cfg.busyWord :: s.txd :: receivedWords s.history

/-- A sequencer that has stopped (R138, R227, D7, U3): after its fault the FSM goes on, and for every further run of exchanges
and turns of the sequencer the host receives `BUSY_WORD` each time, `STATE` stays `WorkerBusy`, `WCR` keeps the command, and
the operation stays where it is; once the moves are used up nothing moves; a reset event brings the block back to `Idle` with
both agents running. That a reset ends the stop is log 22, how the stop is held is log 11, and the list of moves is log 2. -/
def Obligations.StoppedSequencerAnswersBusyForEver : Prop :=
  ∀ (s t : State) (i : Nat) (moves rest : List Input), Inv s → s.state = .workerBusy → s.txd = s.cfg.busyWord →
    step s = .fault (.bufferRange i t) → t.inputs = moves ++ rest → (∀ m ∈ moves, m ≠ .reset) →
    ∃ u, runOn (moves.length + 1) s = some u ∧ core.run moves.length t = .next u ∧
      u.state = .workerBusy ∧ u.wcr = s.wcr ∧ u.seq = s.seq ∧ u.buf = s.buf ∧ u.txd = s.cfg.busyWord ∧
      u.inputs = rest ∧ u.seqFault = some i ∧ u.faults = i :: s.faults ∧ busEvents u.history = busEvents t.history ∧
      receivedWords u.history = List.replicate (moves.countP Input.isExchange) s.cfg.busyWord ++ receivedWords s.history ∧
      (rest = [] → step u = .next u) ∧
      (∀ rest', rest = .reset :: rest' → ∃ v, step u = .next v ∧ v.state = .idle ∧ v.seq = .idle ∧ v.seqFault = none ∧
        v.fsmFault = none ∧ v.inputs = rest')

/-! ### The Buffer and the CRC engine -/

/-- Alignment on the bus (R56, R64, R65, R150): every 16-bit access a step makes is at an even address. -/
def Obligations.FlashAccessesAreAtEvenAddresses : Prop :=
  ∀ (s t : State) (new : List Event) (a : Word) (v : Halfword), Inv s → stateAfter s = some t →
    t.history = new ++ s.history → (.r16 a v ∈ new ∨ .w16 a v ∈ new) → a.getLsbD 0 = false

/-- The three views alias the same bytes, little-endian (R50 to R54): what is written through each view is read through each,
byte by byte, and what lies beside it reads as before. -/
def Obligations.BufferViewsAlias : Prop :=
  (∀ (m : Memory) (i : Nat) (v : Word), Memory.wf m = true → i < 32768 →
    buf32 (setBuf32 m i v) i = v ∧
    buf16 (setBuf32 m i v) (2 * i) = v.extractLsb' 0 16 ∧ buf16 (setBuf32 m i v) (2 * i + 1) = v.extractLsb' 16 16 ∧
    (∀ k < 4, buf8 (setBuf32 m i v) (4 * i + k) = v.extractLsb' (8 * k) 8) ∧
    (∀ j, j ≠ i → buf32 (setBuf32 m i v) j = buf32 m j) ∧
    buf32 (setBuf16 (setBuf16 m (2 * i) (v.extractLsb' 0 16)) (2 * i + 1) (v.extractLsb' 16 16)) i = v) ∧
  (∀ (m : Memory) (j : Nat) (v : Halfword), Memory.wf m = true → j < 65536 →
    buf16 (setBuf16 m j v) j = v ∧
    (∀ k < 2, buf8 (setBuf16 m j v) (2 * j + k) = v.extractLsb' (8 * k) 8) ∧
    (∀ h, h ≠ j → buf16 (setBuf16 m j v) h = buf16 m h) ∧
    buf32 (setBuf16 m j v) (j / 2) =
      if j % 2 = 0 then (buf32 m (j / 2)).extractLsb' 16 16 ++ v else v ++ (buf32 m (j / 2)).extractLsb' 0 16) ∧
  (∀ (m : Memory) (x : Nat) (b : Byte), Memory.wf m = true → x < 131072 →
    buf8 (setBuf8 m x b) x = b ∧ (∀ y, y ≠ x → buf8 (setBuf8 m x b) y = buf8 m y) ∧
    (∀ j k, k < 2 → (buf16 (setBuf8 m x b) j).extractLsb' (8 * k) 8 = if 2 * j + k = x then b else buf8 m (2 * j + k)) ∧
    (∀ i k, k < 4 → (buf32 (setBuf8 m x b) i).extractLsb' (8 * k) 8 = if 4 * i + k = x then b else buf8 m (4 * i + k)))

/-- The CRC update (R136, R137): the table-driven form and the bit-serial form agree on every accumulator and byte. -/
def Obligations.CrcTableAgreesWithBitSerial : Prop :=
  ∀ (acc : Word) (b : Byte),
    crcUpdate acc b = (acc >>> 8) ^^^ crcTab ((acc ^^^ b.setWidth 32).extractLsb' 0 8) ∧
    crcUpdate acc b = crcUpdateBitSerial acc b
end

