-- ==== Sys2Proof/Laws/Decode.lean ====
section
/-! SUPPORT. The fields of a command word, and what a valid configuration gives. -/

namespace Sys2Proof.Laws

/-- Bit `i` of a command word: the parameter below bit 24, the tag from bit 24 on (R80). -/
theorem commandWord_bit (t : Byte) (p : Param) (i : Nat) :
    (commandWord t p).getLsbD i = if i < 24 then p.getLsbD i else t.getLsbD (i - 24) :=
  BitVec.getLsbD_append

@[simp] theorem wordTag_commandWord (t : Byte) (p : Param) : wordTag (commandWord t p) = t := by
  apply BitVec.eq_of_getLsbD_eq
  intro i hi
  have h1 : ¬ 24 + i < 24 := by omega
  have h2 : 24 + i - 24 = i := by omega
  rw [wordTag, BitVec.getLsbD_extractLsb', commandWord_bit, if_neg h1, h2]
  simp [hi]

@[simp] theorem wordParam_commandWord (t : Byte) (p : Param) : wordParam (commandWord t p) = p := by
  apply BitVec.eq_of_getLsbD_eq
  intro i hi
  rw [wordParam, BitVec.getLsbD_extractLsb', commandWord_bit, Nat.zero_add, if_pos hi]
  simp [hi]

/-- A word is its two fields: no bit is dropped. -/
theorem commandWord_fields (w : Word) : commandWord (wordTag w) (wordParam w) = w := by
  apply BitVec.eq_of_getLsbD_eq
  intro i hi
  rw [commandWord_bit]
  by_cases h : i < 24
  · simp [h, wordParam]
  · have h1 : i - 24 < 8 := by omega
    have h2 : 24 + (i - 24) = i := by omega
    simp [h, h1, h2, wordTag]

/-- The tags of a valid configuration are pairwise distinct. -/
theorem nodup_of_valid {c : Cfg} (h : c.valid = true) : c.tags.Nodup := by
  simp only [Cfg.valid, Bool.and_eq_true, decide_eq_true_eq] at h
  exact h.1.1.1.1.1.1.1.1

/-- `NOP_WORD`'s top byte is no tag of a valid configuration. -/
theorem nop_not_tag {c : Cfg} (h : c.valid = true) : wordTag c.nopWord ∉ c.tags := by
  simp only [Cfg.valid, Bool.and_eq_true] at h
  simpa [wordTag] using h.1.1.1.1.1.1.1.2

theorem romBase_even {c : Cfg} (h : c.valid = true) : c.romBase.getLsbD 0 = false := by
  simp only [Cfg.valid, Bool.and_eq_true, beq_iff_eq] at h
  exact h.1.1.1.1.1.2

theorem srOk_ready {c : Cfg} (h : c.valid = true) : (c.srOk &&& c.srReady) ≠ 0 := by
  simp only [Cfg.valid, Bool.and_eq_true, bne_iff_ne] at h
  exact h.1.1.1.2

/-- The chunk size of a valid configuration: at least 1, at most the Buffer, and a divisor of it. -/
theorem chunk_size {c : Cfg} (h : c.valid = true) :
    1 ≤ c.wbHalfwords ∧ c.wbHalfwords ≤ bufHalfwords ∧ bufHalfwords % c.wbHalfwords = 0 := by
  simp only [Cfg.valid, Bool.and_eq_true, beq_iff_eq, decide_eq_true_eq] at h
  exact ⟨h.1.1.2, h.1.2, h.2⟩

/-! ### The worker dispatch, by tag -/

/-- What the worker dispatch can answer: the command of the tag. -/
theorem workerOp_cases {c : Cfg} {t : Byte} {p : Param} {i : Instr} (h : workerOp c t p = some i) :
    (t = c.tagCrc32 ∧ i = .crc32 p) ∨
    (t = c.tagReadSram ∧ i = .readSram p) ∨
    (t = c.tagWriteSram ∧ i = .writeSram p) ∨
    (t = c.tagReadFlash ∧ i = .readFlash p) ∨
    (t = c.tagWriteFlash ∧ i = .writeFlash p) ∨
    (t = c.tagReadEeprom ∧ i = .readEeprom p) ∨
    (t = c.tagWriteEeprom ∧ i = .writeEeprom p) ∨
    (t = c.tagDump ∧ i = .dump p) ∨
    (t = c.tagId ∧ i = .id p) ∨
    (t = c.tagUnlock ∧ i = .unlock p) ∨
    (t = c.tagErase ∧ i = .erase p) ∨
    (t = c.tagProgram ∧ i = .program p) := by
  unfold workerOp at h
  by_cases h0 : t = c.tagCrc32
  · rw [if_pos h0] at h
    cases h
    exact .inl ⟨h0, rfl⟩
  rw [if_neg h0] at h
  by_cases h1 : t = c.tagReadSram
  · rw [if_pos h1] at h
    cases h
    exact .inr (.inl ⟨h1, rfl⟩)
  rw [if_neg h1] at h
  by_cases h2 : t = c.tagWriteSram
  · rw [if_pos h2] at h
    cases h
    exact .inr (.inr (.inl ⟨h2, rfl⟩))
  rw [if_neg h2] at h
  by_cases h3 : t = c.tagReadFlash
  · rw [if_pos h3] at h
    cases h
    exact .inr (.inr (.inr (.inl ⟨h3, rfl⟩)))
  rw [if_neg h3] at h
  by_cases h4 : t = c.tagWriteFlash
  · rw [if_pos h4] at h
    cases h
    exact .inr (.inr (.inr (.inr (.inl ⟨h4, rfl⟩))))
  rw [if_neg h4] at h
  by_cases h5 : t = c.tagReadEeprom
  · rw [if_pos h5] at h
    cases h
    exact .inr (.inr (.inr (.inr (.inr (.inl ⟨h5, rfl⟩)))))
  rw [if_neg h5] at h
  by_cases h6 : t = c.tagWriteEeprom
  · rw [if_pos h6] at h
    cases h
    exact .inr (.inr (.inr (.inr (.inr (.inr (.inl ⟨h6, rfl⟩))))))
  rw [if_neg h6] at h
  by_cases h7 : t = c.tagDump
  · rw [if_pos h7] at h
    cases h
    exact .inr (.inr (.inr (.inr (.inr (.inr (.inr (.inl ⟨h7, rfl⟩)))))))
  rw [if_neg h7] at h
  by_cases h8 : t = c.tagId
  · rw [if_pos h8] at h
    cases h
    exact .inr (.inr (.inr (.inr (.inr (.inr (.inr (.inr (.inl ⟨h8, rfl⟩))))))))
  rw [if_neg h8] at h
  by_cases h9 : t = c.tagUnlock
  · rw [if_pos h9] at h
    cases h
    exact .inr (.inr (.inr (.inr (.inr (.inr (.inr (.inr (.inr (.inl ⟨h9, rfl⟩)))))))))
  rw [if_neg h9] at h
  by_cases h10 : t = c.tagErase
  · rw [if_pos h10] at h
    cases h
    exact .inr (.inr (.inr (.inr (.inr (.inr (.inr (.inr (.inr (.inr (.inl ⟨h10, rfl⟩))))))))))
  rw [if_neg h10] at h
  by_cases h11 : t = c.tagProgram
  · rw [if_pos h11] at h
    cases h
    exact .inr (.inr (.inr (.inr (.inr (.inr (.inr (.inr (.inr (.inr (.inr (⟨h11, rfl⟩)))))))))))
  rw [if_neg h11] at h
  cases h

/-- It answers nothing exactly on a tag that is no worker tag. -/
theorem workerOp_eq_none {c : Cfg} {t : Byte} {p : Param} : workerOp c t p = none ↔ t ∉ c.workerTags := by
  simp only [Cfg.workerTags, List.mem_cons, List.not_mem_nil, or_false, not_or]
  refine ⟨fun h => ?_, fun h => ?_⟩
  · unfold workerOp at h
    by_cases h0 : t = c.tagCrc32
    · rw [if_pos h0] at h; cases h
    rw [if_neg h0] at h
    by_cases h1 : t = c.tagReadSram
    · rw [if_pos h1] at h; cases h
    rw [if_neg h1] at h
    by_cases h2 : t = c.tagWriteSram
    · rw [if_pos h2] at h; cases h
    rw [if_neg h2] at h
    by_cases h3 : t = c.tagReadFlash
    · rw [if_pos h3] at h; cases h
    rw [if_neg h3] at h
    by_cases h4 : t = c.tagWriteFlash
    · rw [if_pos h4] at h; cases h
    rw [if_neg h4] at h
    by_cases h5 : t = c.tagReadEeprom
    · rw [if_pos h5] at h; cases h
    rw [if_neg h5] at h
    by_cases h6 : t = c.tagWriteEeprom
    · rw [if_pos h6] at h; cases h
    rw [if_neg h6] at h
    by_cases h7 : t = c.tagDump
    · rw [if_pos h7] at h; cases h
    rw [if_neg h7] at h
    by_cases h8 : t = c.tagId
    · rw [if_pos h8] at h; cases h
    rw [if_neg h8] at h
    by_cases h9 : t = c.tagUnlock
    · rw [if_pos h9] at h; cases h
    rw [if_neg h9] at h
    by_cases h10 : t = c.tagErase
    · rw [if_pos h10] at h; cases h
    rw [if_neg h10] at h
    by_cases h11 : t = c.tagProgram
    · rw [if_pos h11] at h; cases h
    rw [if_neg h11] at h
    exact ⟨h0, h1, h2, h3, h4, h5, h6, h7, h8, h9, h10, h11⟩
  · obtain ⟨h0, h1, h2, h3, h4, h5, h6, h7, h8, h9, h10, h11⟩ := h
    rw [workerOp, if_neg h0, if_neg h1, if_neg h2, if_neg h3, if_neg h4, if_neg h5, if_neg h6, if_neg h7, if_neg h8, if_neg h9, if_neg h10, if_neg h11]

/-- Under a valid configuration each tag reads as its own command. -/
theorem workerOp_tags {c : Cfg} (h : c.valid = true) (p : Param) :
    workerOp c c.tagCrc32 p = some (.crc32 p) ∧
    workerOp c c.tagReadSram p = some (.readSram p) ∧
    workerOp c c.tagWriteSram p = some (.writeSram p) ∧
    workerOp c c.tagReadFlash p = some (.readFlash p) ∧
    workerOp c c.tagWriteFlash p = some (.writeFlash p) ∧
    workerOp c c.tagReadEeprom p = some (.readEeprom p) ∧
    workerOp c c.tagWriteEeprom p = some (.writeEeprom p) ∧
    workerOp c c.tagDump p = some (.dump p) ∧
    workerOp c c.tagId p = some (.id p) ∧
    workerOp c c.tagUnlock p = some (.unlock p) ∧
    workerOp c c.tagErase p = some (.erase p) ∧
    workerOp c c.tagProgram p = some (.program p) := by
  have hn := nodup_of_valid h
  simp only [Cfg.tags, Cfg.workerTags, List.nodup_cons, List.mem_cons, List.not_mem_nil, or_false, not_or] at hn
  obtain ⟨-, -, -, ⟨n0_1, n0_2, n0_3, n0_4, n0_5, n0_6, n0_7, n0_8, n0_9, n0_10, n0_11⟩, ⟨n1_2, n1_3, n1_4, n1_5, n1_6, n1_7, n1_8, n1_9, n1_10, n1_11⟩, ⟨n2_3, n2_4, n2_5, n2_6, n2_7, n2_8, n2_9, n2_10, n2_11⟩, ⟨n3_4, n3_5, n3_6, n3_7, n3_8, n3_9, n3_10, n3_11⟩, ⟨n4_5, n4_6, n4_7, n4_8, n4_9, n4_10, n4_11⟩, ⟨n5_6, n5_7, n5_8, n5_9, n5_10, n5_11⟩, ⟨n6_7, n6_8, n6_9, n6_10, n6_11⟩, ⟨n7_8, n7_9, n7_10, n7_11⟩, ⟨n8_9, n8_10, n8_11⟩, ⟨n9_10, n9_11⟩, n10_11, -⟩ := hn
  refine ⟨?_, ?_, ?_, ?_, ?_, ?_, ?_, ?_, ?_, ?_, ?_, ?_⟩
  · rw [workerOp, if_pos rfl]
  · rw [workerOp, if_neg (Ne.symm n0_1), if_pos rfl]
  · rw [workerOp, if_neg (Ne.symm n0_2), if_neg (Ne.symm n1_2), if_pos rfl]
  · rw [workerOp, if_neg (Ne.symm n0_3), if_neg (Ne.symm n1_3), if_neg (Ne.symm n2_3), if_pos rfl]
  · rw [workerOp, if_neg (Ne.symm n0_4), if_neg (Ne.symm n1_4), if_neg (Ne.symm n2_4), if_neg (Ne.symm n3_4), if_pos rfl]
  · rw [workerOp, if_neg (Ne.symm n0_5), if_neg (Ne.symm n1_5), if_neg (Ne.symm n2_5), if_neg (Ne.symm n3_5), if_neg (Ne.symm n4_5), if_pos rfl]
  · rw [workerOp, if_neg (Ne.symm n0_6), if_neg (Ne.symm n1_6), if_neg (Ne.symm n2_6), if_neg (Ne.symm n3_6), if_neg (Ne.symm n4_6), if_neg (Ne.symm n5_6), if_pos rfl]
  · rw [workerOp, if_neg (Ne.symm n0_7), if_neg (Ne.symm n1_7), if_neg (Ne.symm n2_7), if_neg (Ne.symm n3_7), if_neg (Ne.symm n4_7), if_neg (Ne.symm n5_7), if_neg (Ne.symm n6_7), if_pos rfl]
  · rw [workerOp, if_neg (Ne.symm n0_8), if_neg (Ne.symm n1_8), if_neg (Ne.symm n2_8), if_neg (Ne.symm n3_8), if_neg (Ne.symm n4_8), if_neg (Ne.symm n5_8), if_neg (Ne.symm n6_8), if_neg (Ne.symm n7_8), if_pos rfl]
  · rw [workerOp, if_neg (Ne.symm n0_9), if_neg (Ne.symm n1_9), if_neg (Ne.symm n2_9), if_neg (Ne.symm n3_9), if_neg (Ne.symm n4_9), if_neg (Ne.symm n5_9), if_neg (Ne.symm n6_9), if_neg (Ne.symm n7_9), if_neg (Ne.symm n8_9), if_pos rfl]
  · rw [workerOp, if_neg (Ne.symm n0_10), if_neg (Ne.symm n1_10), if_neg (Ne.symm n2_10), if_neg (Ne.symm n3_10), if_neg (Ne.symm n4_10), if_neg (Ne.symm n5_10), if_neg (Ne.symm n6_10), if_neg (Ne.symm n7_10), if_neg (Ne.symm n8_10), if_neg (Ne.symm n9_10), if_pos rfl]
  · rw [workerOp, if_neg (Ne.symm n0_11), if_neg (Ne.symm n1_11), if_neg (Ne.symm n2_11), if_neg (Ne.symm n3_11), if_neg (Ne.symm n4_11), if_neg (Ne.symm n5_11), if_neg (Ne.symm n6_11), if_neg (Ne.symm n7_11), if_neg (Ne.symm n8_11), if_neg (Ne.symm n9_11), if_neg (Ne.symm n10_11), if_pos rfl]

end Sys2Proof.Laws
end

