-- ==== Sys2Proof/Laws/Memory.lean ====
section
/-! SUPPORT. The laws of the Buffer as memory: reading after writing, the canonical form, and the three views. -/

namespace Sys2Proof.Laws

open Sys2Proof.Machine

@[simp] theorem read_nil (i : Nat) : Memory.read [] i = Memory.unwritten := rfl

@[simp] theorem read_cons (a : Nat) (b : Byte) (m : Memory) (i : Nat) :
    Memory.read ((a, b) :: m) i = if i = a then b else Memory.read m i := rfl

@[simp] theorem wf_nil : Memory.wf [] = true := rfl

theorem wf_cons (a : Nat) (b : Byte) (m : Memory) :
    Memory.wf ((a, b) :: m) = true ↔
      a < bufBytes ∧ b ≠ Memory.unwritten ∧ (∀ c ∈ m, a < c.1) ∧ Memory.wf m = true := by
  simp [Memory.wf, and_assoc]

/-- Nothing is listed at an address below every listed one. -/
theorem read_of_below {m : Memory} {i : Nat} (h : ∀ c ∈ m, i < c.1) : Memory.read m i = Memory.unwritten := by
  induction m with
  | nil => rfl
  | cons c m ih =>
    obtain ⟨a, b⟩ := c
    have ha : i < a := h (a, b) (by simp)
    rw [read_cons, if_neg (by omega)]
    exact ih fun c hc => h c (by simp [hc])

/-- An entry of the written memory is an old entry or the written one. -/
theorem mem_write {m : Memory} {i : Nat} {v : Byte} {c : Host.Cell} (h : c ∈ Memory.write m i v) :
    c ∈ m ∨ c = (i, v) := by
  induction m with
  | nil =>
    simp only [Memory.write] at h
    split at h
    · cases h
    · simp_all
  | cons d m ih =>
    obtain ⟨a, b⟩ := d
    simp only [Memory.write] at h
    split at h
    · split at h
      · exact .inl h
      · simp only [List.mem_cons] at h ⊢
        rcases h with h | h | h <;> simp [h]
    · split at h
      · subst_vars
        split at h
        · exact .inl (by simp [h])
        · simp only [List.mem_cons] at h ⊢
          rcases h with h | h <;> simp [h]
      · simp only [List.mem_cons] at h ⊢
        rcases h with h | h
        · exact .inl (.inl h)
        · rcases ih h with h | h <;> simp [h]

/-- A write inside the Buffer keeps the canonical form. -/
theorem wf_write {m : Memory} {i : Nat} (v : Byte) (hm : Memory.wf m = true) (hi : i < bufBytes) :
    Memory.wf (Memory.write m i v) = true := by
  induction m with
  | nil =>
    simp only [Memory.write]
    split
    · rfl
    · simp_all [wf_cons]
  | cons d m ih =>
    obtain ⟨a, b⟩ := d
    obtain ⟨ha, hb, hlt, hm'⟩ := (wf_cons a b m).1 hm
    simp only [Memory.write]
    split
    · split
      · exact hm
      · refine (wf_cons ..).2 ⟨hi, by assumption, ?_, hm⟩
        intro c hc
        simp only [List.mem_cons] at hc
        rcases hc with rfl | hc
        · assumption
        · have := hlt c hc; omega
    · split
      · split
        · exact hm'
        · exact (wf_cons ..).2 ⟨ha, by assumption, hlt, hm'⟩
      · refine (wf_cons ..).2 ⟨ha, hb, ?_, ih hm'⟩
        intro c hc
        rcases mem_write hc with hc | rfl
        · exact hlt c hc
        · simp only; omega

/-- Reading after a write: the written byte at its address, every other byte as before. -/
theorem read_write {m : Memory} (i j : Nat) (v : Byte) (hm : Memory.wf m = true) :
    Memory.read (Memory.write m i v) j = if j = i then v else Memory.read m j := by
  induction m with
  | nil =>
    simp only [Memory.write]
    split <;> simp_all
  | cons d m ih =>
    obtain ⟨a, b⟩ := d
    obtain ⟨-, -, hlt, hm'⟩ := (wf_cons a b m).1 hm
    have hbelow : ∀ k, k ≤ a → Memory.read m k = Memory.unwritten := fun k hk =>
      read_of_below fun c hc => by have := hlt c hc; omega
    simp only [Memory.write]
    split
    · split
      · by_cases hj : j = i
        · subst hj
          have : j ≠ a := by omega
          simp [*, hbelow j (by omega)]
        · simp [hj]
      · simp
    · split
      · subst_vars
        split
        · by_cases hj : j = a
          · subst hj; simp [*, hbelow j (by omega)]
          · simp [hj]
        · simp only [read_cons]; split <;> rfl
      · simp only [read_cons, ih hm']
        split
        · have : j ≠ i := by omega
          simp [this]
        · rfl

/-- Two memories in canonical form that read the same are the same data. -/
theorem eq_of_read_eq {m m' : Memory} (hm : Memory.wf m = true) (hm' : Memory.wf m' = true)
    (h : ∀ i, Memory.read m i = Memory.read m' i) : m = m' := by
  induction m generalizing m' with
  | nil =>
    cases m' with
    | nil => rfl
    | cons d m' =>
      obtain ⟨a, b⟩ := d
      obtain ⟨-, hb, -, -⟩ := (wf_cons a b m').1 hm'
      exact absurd (by simpa using (h a).symm) hb
  | cons d m ih =>
    obtain ⟨a, b⟩ := d
    obtain ⟨-, hb, hlt, hmm⟩ := (wf_cons a b m).1 hm
    cases m' with
    | nil => exact absurd (by simpa using h a) hb
    | cons d' m' =>
      obtain ⟨a', b'⟩ := d'
      obtain ⟨-, hb', hlt', hmm'⟩ := (wf_cons a' b' m').1 hm'
      have ha : a = a' := by
        rcases Nat.lt_trichotomy a a' with hlt1 | he | hlt1
        · have h1 := h a
          have h2 : Memory.read m' a = Memory.unwritten :=
            read_of_below fun c hc => by have := hlt' c hc; omega
          have hne : a ≠ a' := by omega
          simp [hne, h2] at h1
          exact absurd h1 hb
        · exact he
        · have h1 := h a'
          have h2 : Memory.read m a' = Memory.unwritten :=
            read_of_below fun c hc => by have := hlt c hc; omega
          have hne : a' ≠ a := by omega
          simp [hne, h2] at h1
          exact absurd h1.symm hb'
      subst ha
      have hbb : b = b' := by simpa using h a
      subst hbb
      congr 1
      refine ih hmm hmm' fun i => ?_
      by_cases hi : i = a
      · subst hi
        rw [read_of_below hlt, read_of_below hlt']
      · simpa [hi] using h i

/-- A memory made from a function of the address reads as that function, and is canonical. -/
theorem read_filterMap (f : Nat → Byte) (l : List Nat) (i : Nat) :
    Memory.read (l.filterMap fun i => if f i = Memory.unwritten then none else some (i, f i)) i =
      if i ∈ l then f i else Memory.unwritten := by
  induction l with
  | nil => rfl
  | cons a l ih =>
    by_cases ha : f a = Memory.unwritten
    · rw [List.filterMap_cons_none (by simp [ha]), ih]
      by_cases hi : i = a
      · subst hi; simp [ha]
      · simp [hi]
    · rw [List.filterMap_cons_some (by simp [ha]; rfl), read_cons, ih]
      by_cases hi : i = a
      · subst hi; simp
      · simp [hi]

theorem read_ofBytes (f : Nat → Byte) {i : Nat} (hi : i < bufBytes) : Memory.read (Memory.ofBytes f) i = f i := by
  rw [Memory.ofBytes, read_filterMap, if_pos (List.mem_range.2 hi)]

theorem wf_filterMap (f : Nat → Byte) (l : List Nat) (hl : l.Pairwise (· < ·)) (hb : ∀ a ∈ l, a < bufBytes) :
    Memory.wf (l.filterMap fun i => if f i = Memory.unwritten then none else some (i, f i)) = true := by
  induction l with
  | nil => rfl
  | cons a l ih =>
    obtain ⟨hlt, hl'⟩ := List.pairwise_cons.1 hl
    have ih' := ih hl' fun c hc => hb c (by simp [hc])
    by_cases ha : f a = Memory.unwritten
    · rwa [List.filterMap_cons_none (by simp [ha])]
    · rw [List.filterMap_cons_some (by simp [ha]; rfl)]
      refine (wf_cons ..).2 ⟨hb a (by simp), ha, ?_, ih'⟩
      intro c hc
      obtain ⟨k, hk, hkc⟩ := List.mem_filterMap.1 hc
      split at hkc
      · cases hkc
      · cases hkc; exact hlt k hk

theorem wf_ofBytes (f : Nat → Byte) : Memory.wf (Memory.ofBytes f) = true := by
  rw [Memory.ofBytes]
  exact wf_filterMap f _ List.pairwise_lt_range fun _ h => List.mem_range.1 h

/-! ### The three views keep the canonical form -/

theorem wf_setBuf8 {m : Memory} {i : Nat} (v : Byte) (hm : Memory.wf m = true) (hi : i < bufBytes) :
    Memory.wf (setBuf8 m i v) = true := wf_write v hm hi

theorem wf_setBuf16 {m : Memory} {i : Nat} (v : Halfword) (hm : Memory.wf m = true) (hi : i < bufHalfwords) :
    Memory.wf (setBuf16 m i v) = true := by
  have h : i < 65536 := hi
  refine wf_write _ (wf_write _ hm ?_) ?_ <;> show _ < 131072 <;> omega

theorem wf_setBuf32 {m : Memory} {i : Nat} (v : Word) (hm : Memory.wf m = true) (hi : i < bufWords) :
    Memory.wf (setBuf32 m i v) = true := by
  have h : i < 32768 := hi
  refine wf_write _ (wf_write _ (wf_write _ (wf_write _ hm ?_) ?_) ?_) ?_ <;> show _ < 131072 <;> omega

/-! ### Reading a byte after a write through a view -/

theorem read_setBuf8 {m : Memory} (i j : Nat) (v : Byte) (hm : Memory.wf m = true) :
    Memory.read (setBuf8 m i v) j = if j = i then v else Memory.read m j := read_write i j v hm

theorem read_setBuf16 {m : Memory} (i j : Nat) (v : Halfword) (hm : Memory.wf m = true) (hi : i < bufHalfwords) :
    Memory.read (setBuf16 m i v) j =
      if j = 2 * i then v.extractLsb' 0 8 else if j = 2 * i + 1 then v.extractLsb' 8 8 else Memory.read m j := by
  have h : i < 65536 := hi
  have h0 : 2 * i < bufBytes := by show _ < 131072; omega
  rw [setBuf16, read_write _ _ _ (wf_write _ hm h0), read_write _ _ _ hm]
  split_ifs <;> first | rfl | omega

theorem read_setBuf32 {m : Memory} (i j : Nat) (v : Word) (hm : Memory.wf m = true) (hi : i < bufWords) :
    Memory.read (setBuf32 m i v) j =
      if j = 4 * i then v.extractLsb' 0 8 else if j = 4 * i + 1 then v.extractLsb' 8 8
      else if j = 4 * i + 2 then v.extractLsb' 16 8 else if j = 4 * i + 3 then v.extractLsb' 24 8
      else Memory.read m j := by
  have h : i < 32768 := hi
  have h0 : 4 * i < bufBytes := by show _ < 131072; omega
  have h1 : 4 * i + 1 < bufBytes := by show _ < 131072; omega
  have h2 : 4 * i + 2 < bufBytes := by show _ < 131072; omega
  have w0 := wf_write (v.extractLsb' 0 8) hm h0
  have w1 := wf_write (v.extractLsb' 8 8) w0 h1
  have w2 := wf_write (v.extractLsb' 16 8) w1 h2
  rw [setBuf32, read_write _ _ _ w2, read_write _ _ _ w1, read_write _ _ _ w0, read_write _ _ _ hm]
  split_ifs <;> first | rfl | omega

/-- The memory after reset is in canonical form. -/
theorem wf_reset : Memory.wf State.reset.buf = true := rfl

end Sys2Proof.Laws
end

