-- ==== Sys2Proof/Laws/State.lean ====
section
/-! SUPPORT. One lemma per field per named update of State: what the field is afterwards. -/

namespace Sys2Proof.Laws

open Sys2Proof.Machine

@[simp] theorem emit_state (s : State) (w : Word) : (s.emit w).state = s.state := rfl
@[simp] theorem emit_len (s : State) (w : Word) : (s.emit w).len = s.len := rfl
@[simp] theorem emit_off (s : State) (w : Word) : (s.emit w).off = s.off := rfl
@[simp] theorem emit_wcr (s : State) (w : Word) : (s.emit w).wcr = s.wcr := rfl
@[simp] theorem emit_txd (s : State) (w : Word) : (s.emit w).txd = w := rfl
@[simp] theorem emit_buf (s : State) (w : Word) : (s.emit w).buf = s.buf := rfl
@[simp] theorem emit_seq (s : State) (w : Word) : (s.emit w).seq = s.seq := rfl
@[simp] theorem emit_crcacc (s : State) (w : Word) : (s.emit w).crcacc = s.crcacc := rfl
@[simp] theorem emit_cfg (s : State) (w : Word) : (s.emit w).cfg = s.cfg := rfl
@[simp] theorem emit_history (s : State) (w : Word) : (s.emit w).history = s.history := rfl
@[simp] theorem emit_fsmFault (s : State) (w : Word) : (s.emit w).fsmFault = s.fsmFault := rfl
@[simp] theorem emit_seqFault (s : State) (w : Word) : (s.emit w).seqFault = s.seqFault := rfl
@[simp] theorem emit_faults (s : State) (w : Word) : (s.emit w).faults = s.faults := rfl
@[simp] theorem emit_inputs (s : State) (w : Word) : (s.emit w).inputs = s.inputs := rfl
@[simp] theorem emit_cart16 (s : State) (w : Word) : (s.emit w).cart16 = s.cart16 := rfl
@[simp] theorem emit_cart8 (s : State) (w : Word) : (s.emit w).cart8 = s.cart8 := rfl
@[simp] theorem emit_saveReads (s : State) (w : Word) : (s.emit w).saveReads = s.saveReads := rfl
@[simp] theorem emit_saveWrites (s : State) (w : Word) : (s.emit w).saveWrites = s.saveWrites := rfl
@[simp] theorem emit_draws (s : State) (w : Word) : (s.emit w).draws = s.draws := rfl

@[simp] theorem goto_state (s : State) (st : FsmState) : (s.goto st).state = st := rfl
@[simp] theorem goto_len (s : State) (st : FsmState) : (s.goto st).len = s.len := rfl
@[simp] theorem goto_off (s : State) (st : FsmState) : (s.goto st).off = s.off := rfl
@[simp] theorem goto_wcr (s : State) (st : FsmState) : (s.goto st).wcr = s.wcr := rfl
@[simp] theorem goto_txd (s : State) (st : FsmState) : (s.goto st).txd = s.txd := rfl
@[simp] theorem goto_buf (s : State) (st : FsmState) : (s.goto st).buf = s.buf := rfl
@[simp] theorem goto_seq (s : State) (st : FsmState) : (s.goto st).seq = s.seq := rfl
@[simp] theorem goto_crcacc (s : State) (st : FsmState) : (s.goto st).crcacc = s.crcacc := rfl
@[simp] theorem goto_cfg (s : State) (st : FsmState) : (s.goto st).cfg = s.cfg := rfl
@[simp] theorem goto_history (s : State) (st : FsmState) : (s.goto st).history = s.history := rfl
@[simp] theorem goto_fsmFault (s : State) (st : FsmState) : (s.goto st).fsmFault = s.fsmFault := rfl
@[simp] theorem goto_seqFault (s : State) (st : FsmState) : (s.goto st).seqFault = s.seqFault := rfl
@[simp] theorem goto_faults (s : State) (st : FsmState) : (s.goto st).faults = s.faults := rfl
@[simp] theorem goto_inputs (s : State) (st : FsmState) : (s.goto st).inputs = s.inputs := rfl
@[simp] theorem goto_cart16 (s : State) (st : FsmState) : (s.goto st).cart16 = s.cart16 := rfl
@[simp] theorem goto_cart8 (s : State) (st : FsmState) : (s.goto st).cart8 = s.cart8 := rfl
@[simp] theorem goto_saveReads (s : State) (st : FsmState) : (s.goto st).saveReads = s.saveReads := rfl
@[simp] theorem goto_saveWrites (s : State) (st : FsmState) : (s.goto st).saveWrites = s.saveWrites := rfl
@[simp] theorem goto_draws (s : State) (st : FsmState) : (s.goto st).draws = s.draws := rfl

@[simp] theorem latch_state (s : State) (w : Word) : (s.latch w).state = s.state := rfl
@[simp] theorem latch_len (s : State) (w : Word) : (s.latch w).len = s.len := rfl
@[simp] theorem latch_off (s : State) (w : Word) : (s.latch w).off = s.off := rfl
@[simp] theorem latch_wcr (s : State) (w : Word) : (s.latch w).wcr = w := rfl
@[simp] theorem latch_txd (s : State) (w : Word) : (s.latch w).txd = s.txd := rfl
@[simp] theorem latch_buf (s : State) (w : Word) : (s.latch w).buf = s.buf := rfl
@[simp] theorem latch_seq (s : State) (w : Word) : (s.latch w).seq = s.seq := rfl
@[simp] theorem latch_crcacc (s : State) (w : Word) : (s.latch w).crcacc = s.crcacc := rfl
@[simp] theorem latch_cfg (s : State) (w : Word) : (s.latch w).cfg = s.cfg := rfl
@[simp] theorem latch_history (s : State) (w : Word) : (s.latch w).history = s.history := rfl
@[simp] theorem latch_fsmFault (s : State) (w : Word) : (s.latch w).fsmFault = s.fsmFault := rfl
@[simp] theorem latch_seqFault (s : State) (w : Word) : (s.latch w).seqFault = s.seqFault := rfl
@[simp] theorem latch_faults (s : State) (w : Word) : (s.latch w).faults = s.faults := rfl
@[simp] theorem latch_inputs (s : State) (w : Word) : (s.latch w).inputs = s.inputs := rfl
@[simp] theorem latch_cart16 (s : State) (w : Word) : (s.latch w).cart16 = s.cart16 := rfl
@[simp] theorem latch_cart8 (s : State) (w : Word) : (s.latch w).cart8 = s.cart8 := rfl
@[simp] theorem latch_saveReads (s : State) (w : Word) : (s.latch w).saveReads = s.saveReads := rfl
@[simp] theorem latch_saveWrites (s : State) (w : Word) : (s.latch w).saveWrites = s.saveWrites := rfl
@[simp] theorem latch_draws (s : State) (w : Word) : (s.latch w).draws = s.draws := rfl

@[simp] theorem setTransfer_state (s : State) (len off : Word) : (s.setTransfer len off).state = s.state := rfl
@[simp] theorem setTransfer_len (s : State) (len off : Word) : (s.setTransfer len off).len = len := rfl
@[simp] theorem setTransfer_off (s : State) (len off : Word) : (s.setTransfer len off).off = off := rfl
@[simp] theorem setTransfer_wcr (s : State) (len off : Word) : (s.setTransfer len off).wcr = s.wcr := rfl
@[simp] theorem setTransfer_txd (s : State) (len off : Word) : (s.setTransfer len off).txd = s.txd := rfl
@[simp] theorem setTransfer_buf (s : State) (len off : Word) : (s.setTransfer len off).buf = s.buf := rfl
@[simp] theorem setTransfer_seq (s : State) (len off : Word) : (s.setTransfer len off).seq = s.seq := rfl
@[simp] theorem setTransfer_crcacc (s : State) (len off : Word) : (s.setTransfer len off).crcacc = s.crcacc := rfl
@[simp] theorem setTransfer_cfg (s : State) (len off : Word) : (s.setTransfer len off).cfg = s.cfg := rfl
@[simp] theorem setTransfer_history (s : State) (len off : Word) : (s.setTransfer len off).history = s.history := rfl
@[simp] theorem setTransfer_fsmFault (s : State) (len off : Word) : (s.setTransfer len off).fsmFault = s.fsmFault := rfl
@[simp] theorem setTransfer_seqFault (s : State) (len off : Word) : (s.setTransfer len off).seqFault = s.seqFault := rfl
@[simp] theorem setTransfer_faults (s : State) (len off : Word) : (s.setTransfer len off).faults = s.faults := rfl
@[simp] theorem setTransfer_inputs (s : State) (len off : Word) : (s.setTransfer len off).inputs = s.inputs := rfl
@[simp] theorem setTransfer_cart16 (s : State) (len off : Word) : (s.setTransfer len off).cart16 = s.cart16 := rfl
@[simp] theorem setTransfer_cart8 (s : State) (len off : Word) : (s.setTransfer len off).cart8 = s.cart8 := rfl
@[simp] theorem setTransfer_saveReads (s : State) (len off : Word) : (s.setTransfer len off).saveReads = s.saveReads := rfl
@[simp] theorem setTransfer_saveWrites (s : State) (len off : Word) : (s.setTransfer len off).saveWrites = s.saveWrites := rfl
@[simp] theorem setTransfer_draws (s : State) (len off : Word) : (s.setTransfer len off).draws = s.draws := rfl

@[simp] theorem setBuf_state (s : State) (m : Memory) : (s.setBuf m).state = s.state := rfl
@[simp] theorem setBuf_len (s : State) (m : Memory) : (s.setBuf m).len = s.len := rfl
@[simp] theorem setBuf_off (s : State) (m : Memory) : (s.setBuf m).off = s.off := rfl
@[simp] theorem setBuf_wcr (s : State) (m : Memory) : (s.setBuf m).wcr = s.wcr := rfl
@[simp] theorem setBuf_txd (s : State) (m : Memory) : (s.setBuf m).txd = s.txd := rfl
@[simp] theorem setBuf_buf (s : State) (m : Memory) : (s.setBuf m).buf = m := rfl
@[simp] theorem setBuf_seq (s : State) (m : Memory) : (s.setBuf m).seq = s.seq := rfl
@[simp] theorem setBuf_crcacc (s : State) (m : Memory) : (s.setBuf m).crcacc = s.crcacc := rfl
@[simp] theorem setBuf_cfg (s : State) (m : Memory) : (s.setBuf m).cfg = s.cfg := rfl
@[simp] theorem setBuf_history (s : State) (m : Memory) : (s.setBuf m).history = s.history := rfl
@[simp] theorem setBuf_fsmFault (s : State) (m : Memory) : (s.setBuf m).fsmFault = s.fsmFault := rfl
@[simp] theorem setBuf_seqFault (s : State) (m : Memory) : (s.setBuf m).seqFault = s.seqFault := rfl
@[simp] theorem setBuf_faults (s : State) (m : Memory) : (s.setBuf m).faults = s.faults := rfl
@[simp] theorem setBuf_inputs (s : State) (m : Memory) : (s.setBuf m).inputs = s.inputs := rfl
@[simp] theorem setBuf_cart16 (s : State) (m : Memory) : (s.setBuf m).cart16 = s.cart16 := rfl
@[simp] theorem setBuf_cart8 (s : State) (m : Memory) : (s.setBuf m).cart8 = s.cart8 := rfl
@[simp] theorem setBuf_saveReads (s : State) (m : Memory) : (s.setBuf m).saveReads = s.saveReads := rfl
@[simp] theorem setBuf_saveWrites (s : State) (m : Memory) : (s.setBuf m).saveWrites = s.saveWrites := rfl
@[simp] theorem setBuf_draws (s : State) (m : Memory) : (s.setBuf m).draws = s.draws := rfl

@[simp] theorem setAcc_state (s : State) (w : Word) : (s.setAcc w).state = s.state := rfl
@[simp] theorem setAcc_len (s : State) (w : Word) : (s.setAcc w).len = s.len := rfl
@[simp] theorem setAcc_off (s : State) (w : Word) : (s.setAcc w).off = s.off := rfl
@[simp] theorem setAcc_wcr (s : State) (w : Word) : (s.setAcc w).wcr = s.wcr := rfl
@[simp] theorem setAcc_txd (s : State) (w : Word) : (s.setAcc w).txd = s.txd := rfl
@[simp] theorem setAcc_buf (s : State) (w : Word) : (s.setAcc w).buf = s.buf := rfl
@[simp] theorem setAcc_seq (s : State) (w : Word) : (s.setAcc w).seq = s.seq := rfl
@[simp] theorem setAcc_crcacc (s : State) (w : Word) : (s.setAcc w).crcacc = w := rfl
@[simp] theorem setAcc_cfg (s : State) (w : Word) : (s.setAcc w).cfg = s.cfg := rfl
@[simp] theorem setAcc_history (s : State) (w : Word) : (s.setAcc w).history = s.history := rfl
@[simp] theorem setAcc_fsmFault (s : State) (w : Word) : (s.setAcc w).fsmFault = s.fsmFault := rfl
@[simp] theorem setAcc_seqFault (s : State) (w : Word) : (s.setAcc w).seqFault = s.seqFault := rfl
@[simp] theorem setAcc_faults (s : State) (w : Word) : (s.setAcc w).faults = s.faults := rfl
@[simp] theorem setAcc_inputs (s : State) (w : Word) : (s.setAcc w).inputs = s.inputs := rfl
@[simp] theorem setAcc_cart16 (s : State) (w : Word) : (s.setAcc w).cart16 = s.cart16 := rfl
@[simp] theorem setAcc_cart8 (s : State) (w : Word) : (s.setAcc w).cart8 = s.cart8 := rfl
@[simp] theorem setAcc_saveReads (s : State) (w : Word) : (s.setAcc w).saveReads = s.saveReads := rfl
@[simp] theorem setAcc_saveWrites (s : State) (w : Word) : (s.setAcc w).saveWrites = s.saveWrites := rfl
@[simp] theorem setAcc_draws (s : State) (w : Word) : (s.setAcc w).draws = s.draws := rfl

@[simp] theorem record_state (s : State) (e : Event) : (s.record e).state = s.state := rfl
@[simp] theorem record_len (s : State) (e : Event) : (s.record e).len = s.len := rfl
@[simp] theorem record_off (s : State) (e : Event) : (s.record e).off = s.off := rfl
@[simp] theorem record_wcr (s : State) (e : Event) : (s.record e).wcr = s.wcr := rfl
@[simp] theorem record_txd (s : State) (e : Event) : (s.record e).txd = s.txd := rfl
@[simp] theorem record_buf (s : State) (e : Event) : (s.record e).buf = s.buf := rfl
@[simp] theorem record_seq (s : State) (e : Event) : (s.record e).seq = s.seq := rfl
@[simp] theorem record_crcacc (s : State) (e : Event) : (s.record e).crcacc = s.crcacc := rfl
@[simp] theorem record_cfg (s : State) (e : Event) : (s.record e).cfg = s.cfg := rfl
@[simp] theorem record_history (s : State) (e : Event) : (s.record e).history = e :: s.history := rfl
@[simp] theorem record_fsmFault (s : State) (e : Event) : (s.record e).fsmFault = s.fsmFault := rfl
@[simp] theorem record_seqFault (s : State) (e : Event) : (s.record e).seqFault = s.seqFault := rfl
@[simp] theorem record_faults (s : State) (e : Event) : (s.record e).faults = s.faults := rfl
@[simp] theorem record_inputs (s : State) (e : Event) : (s.record e).inputs = s.inputs := rfl
@[simp] theorem record_cart16 (s : State) (e : Event) : (s.record e).cart16 = s.cart16 := rfl
@[simp] theorem record_cart8 (s : State) (e : Event) : (s.record e).cart8 = s.cart8 := rfl
@[simp] theorem record_saveReads (s : State) (e : Event) : (s.record e).saveReads = s.saveReads := rfl
@[simp] theorem record_saveWrites (s : State) (e : Event) : (s.record e).saveWrites = s.saveWrites := rfl
@[simp] theorem record_draws (s : State) (e : Event) : (s.record e).draws = s.draws := rfl

@[simp] theorem toPos_state (s : State) (c : Word) (p : SeqPos) (l : SeqLocals) : (s.toPos c p l).state = s.state := rfl
@[simp] theorem toPos_len (s : State) (c : Word) (p : SeqPos) (l : SeqLocals) : (s.toPos c p l).len = s.len := rfl
@[simp] theorem toPos_off (s : State) (c : Word) (p : SeqPos) (l : SeqLocals) : (s.toPos c p l).off = s.off := rfl
@[simp] theorem toPos_wcr (s : State) (c : Word) (p : SeqPos) (l : SeqLocals) : (s.toPos c p l).wcr = s.wcr := rfl
@[simp] theorem toPos_txd (s : State) (c : Word) (p : SeqPos) (l : SeqLocals) : (s.toPos c p l).txd = s.txd := rfl
@[simp] theorem toPos_buf (s : State) (c : Word) (p : SeqPos) (l : SeqLocals) : (s.toPos c p l).buf = s.buf := rfl
@[simp] theorem toPos_seq (s : State) (c : Word) (p : SeqPos) (l : SeqLocals) : (s.toPos c p l).seq = .running c p l := rfl
@[simp] theorem toPos_crcacc (s : State) (c : Word) (p : SeqPos) (l : SeqLocals) : (s.toPos c p l).crcacc = s.crcacc := rfl
@[simp] theorem toPos_cfg (s : State) (c : Word) (p : SeqPos) (l : SeqLocals) : (s.toPos c p l).cfg = s.cfg := rfl
@[simp] theorem toPos_history (s : State) (c : Word) (p : SeqPos) (l : SeqLocals) : (s.toPos c p l).history = s.history := rfl
@[simp] theorem toPos_fsmFault (s : State) (c : Word) (p : SeqPos) (l : SeqLocals) : (s.toPos c p l).fsmFault = s.fsmFault := rfl
@[simp] theorem toPos_seqFault (s : State) (c : Word) (p : SeqPos) (l : SeqLocals) : (s.toPos c p l).seqFault = s.seqFault := rfl
@[simp] theorem toPos_faults (s : State) (c : Word) (p : SeqPos) (l : SeqLocals) : (s.toPos c p l).faults = s.faults := rfl
@[simp] theorem toPos_inputs (s : State) (c : Word) (p : SeqPos) (l : SeqLocals) : (s.toPos c p l).inputs = s.inputs := rfl
@[simp] theorem toPos_cart16 (s : State) (c : Word) (p : SeqPos) (l : SeqLocals) : (s.toPos c p l).cart16 = s.cart16 := rfl
@[simp] theorem toPos_cart8 (s : State) (c : Word) (p : SeqPos) (l : SeqLocals) : (s.toPos c p l).cart8 = s.cart8 := rfl
@[simp] theorem toPos_saveReads (s : State) (c : Word) (p : SeqPos) (l : SeqLocals) : (s.toPos c p l).saveReads = s.saveReads := rfl
@[simp] theorem toPos_saveWrites (s : State) (c : Word) (p : SeqPos) (l : SeqLocals) : (s.toPos c p l).saveWrites = s.saveWrites := rfl
@[simp] theorem toPos_draws (s : State) (c : Word) (p : SeqPos) (l : SeqLocals) : (s.toPos c p l).draws = s.draws := rfl

@[simp] theorem releaseSeq_state (s : State) : (s.releaseSeq).state = .idle := rfl
@[simp] theorem releaseSeq_len (s : State) : (s.releaseSeq).len = s.len := rfl
@[simp] theorem releaseSeq_off (s : State) : (s.releaseSeq).off = s.off := rfl
@[simp] theorem releaseSeq_wcr (s : State) : (s.releaseSeq).wcr = s.wcr := rfl
@[simp] theorem releaseSeq_txd (s : State) : (s.releaseSeq).txd = s.txd := rfl
@[simp] theorem releaseSeq_buf (s : State) : (s.releaseSeq).buf = s.buf := rfl
@[simp] theorem releaseSeq_seq (s : State) : (s.releaseSeq).seq = .idle := rfl
@[simp] theorem releaseSeq_crcacc (s : State) : (s.releaseSeq).crcacc = s.crcacc := rfl
@[simp] theorem releaseSeq_cfg (s : State) : (s.releaseSeq).cfg = s.cfg := rfl
@[simp] theorem releaseSeq_history (s : State) : (s.releaseSeq).history = s.history := rfl
@[simp] theorem releaseSeq_fsmFault (s : State) : (s.releaseSeq).fsmFault = s.fsmFault := rfl
@[simp] theorem releaseSeq_seqFault (s : State) : (s.releaseSeq).seqFault = s.seqFault := rfl
@[simp] theorem releaseSeq_faults (s : State) : (s.releaseSeq).faults = s.faults := rfl
@[simp] theorem releaseSeq_inputs (s : State) : (s.releaseSeq).inputs = s.inputs := rfl
@[simp] theorem releaseSeq_cart16 (s : State) : (s.releaseSeq).cart16 = s.cart16 := rfl
@[simp] theorem releaseSeq_cart8 (s : State) : (s.releaseSeq).cart8 = s.cart8 := rfl
@[simp] theorem releaseSeq_saveReads (s : State) : (s.releaseSeq).saveReads = s.saveReads := rfl
@[simp] theorem releaseSeq_saveWrites (s : State) : (s.releaseSeq).saveWrites = s.saveWrites := rfl
@[simp] theorem releaseSeq_draws (s : State) : (s.releaseSeq).draws = s.draws := rfl

@[simp] theorem withInputs_state (s : State) (r : List Input) : (s.withInputs r).state = s.state := rfl
@[simp] theorem withInputs_len (s : State) (r : List Input) : (s.withInputs r).len = s.len := rfl
@[simp] theorem withInputs_off (s : State) (r : List Input) : (s.withInputs r).off = s.off := rfl
@[simp] theorem withInputs_wcr (s : State) (r : List Input) : (s.withInputs r).wcr = s.wcr := rfl
@[simp] theorem withInputs_txd (s : State) (r : List Input) : (s.withInputs r).txd = s.txd := rfl
@[simp] theorem withInputs_buf (s : State) (r : List Input) : (s.withInputs r).buf = s.buf := rfl
@[simp] theorem withInputs_seq (s : State) (r : List Input) : (s.withInputs r).seq = s.seq := rfl
@[simp] theorem withInputs_crcacc (s : State) (r : List Input) : (s.withInputs r).crcacc = s.crcacc := rfl
@[simp] theorem withInputs_cfg (s : State) (r : List Input) : (s.withInputs r).cfg = s.cfg := rfl
@[simp] theorem withInputs_history (s : State) (r : List Input) : (s.withInputs r).history = s.history := rfl
@[simp] theorem withInputs_fsmFault (s : State) (r : List Input) : (s.withInputs r).fsmFault = s.fsmFault := rfl
@[simp] theorem withInputs_seqFault (s : State) (r : List Input) : (s.withInputs r).seqFault = s.seqFault := rfl
@[simp] theorem withInputs_faults (s : State) (r : List Input) : (s.withInputs r).faults = s.faults := rfl
@[simp] theorem withInputs_inputs (s : State) (r : List Input) : (s.withInputs r).inputs = r := rfl
@[simp] theorem withInputs_cart16 (s : State) (r : List Input) : (s.withInputs r).cart16 = s.cart16 := rfl
@[simp] theorem withInputs_cart8 (s : State) (r : List Input) : (s.withInputs r).cart8 = s.cart8 := rfl
@[simp] theorem withInputs_saveReads (s : State) (r : List Input) : (s.withInputs r).saveReads = s.saveReads := rfl
@[simp] theorem withInputs_saveWrites (s : State) (r : List Input) : (s.withInputs r).saveWrites = s.saveWrites := rfl
@[simp] theorem withInputs_draws (s : State) (r : List Input) : (s.withInputs r).draws = s.draws := rfl

@[simp] theorem takeExchange_state (s : State) (rx : Word) : (takeExchange rx s).state = s.state := rfl
@[simp] theorem takeExchange_len (s : State) (rx : Word) : (takeExchange rx s).len = s.len := rfl
@[simp] theorem takeExchange_off (s : State) (rx : Word) : (takeExchange rx s).off = s.off := rfl
@[simp] theorem takeExchange_wcr (s : State) (rx : Word) : (takeExchange rx s).wcr = s.wcr := rfl
@[simp] theorem takeExchange_txd (s : State) (rx : Word) : (takeExchange rx s).txd = s.txd := rfl
@[simp] theorem takeExchange_buf (s : State) (rx : Word) : (takeExchange rx s).buf = s.buf := rfl
@[simp] theorem takeExchange_seq (s : State) (rx : Word) : (takeExchange rx s).seq = s.seq := rfl
@[simp] theorem takeExchange_crcacc (s : State) (rx : Word) : (takeExchange rx s).crcacc = s.crcacc := rfl
@[simp] theorem takeExchange_cfg (s : State) (rx : Word) : (takeExchange rx s).cfg = s.cfg := rfl
@[simp] theorem takeExchange_history (s : State) (rx : Word) : (takeExchange rx s).history = .exch rx s.txd :: s.history := rfl
@[simp] theorem takeExchange_fsmFault (s : State) (rx : Word) : (takeExchange rx s).fsmFault = s.fsmFault := rfl
@[simp] theorem takeExchange_seqFault (s : State) (rx : Word) : (takeExchange rx s).seqFault = s.seqFault := rfl
@[simp] theorem takeExchange_faults (s : State) (rx : Word) : (takeExchange rx s).faults = s.faults := rfl
@[simp] theorem takeExchange_inputs (s : State) (rx : Word) : (takeExchange rx s).inputs = s.inputs := rfl
@[simp] theorem takeExchange_cart16 (s : State) (rx : Word) : (takeExchange rx s).cart16 = s.cart16 := rfl
@[simp] theorem takeExchange_cart8 (s : State) (rx : Word) : (takeExchange rx s).cart8 = s.cart8 := rfl
@[simp] theorem takeExchange_saveReads (s : State) (rx : Word) : (takeExchange rx s).saveReads = s.saveReads := rfl
@[simp] theorem takeExchange_saveWrites (s : State) (rx : Word) : (takeExchange rx s).saveWrites = s.saveWrites := rfl
@[simp] theorem takeExchange_draws (s : State) (rx : Word) : (takeExchange rx s).draws = s.draws := rfl

@[simp] theorem cartRead16_state (s : State) (a : Word) : (cartRead16 a s).state = s.state := rfl
@[simp] theorem cartRead16_len (s : State) (a : Word) : (cartRead16 a s).len = s.len := rfl
@[simp] theorem cartRead16_off (s : State) (a : Word) : (cartRead16 a s).off = s.off := rfl
@[simp] theorem cartRead16_wcr (s : State) (a : Word) : (cartRead16 a s).wcr = s.wcr := rfl
@[simp] theorem cartRead16_txd (s : State) (a : Word) : (cartRead16 a s).txd = s.txd := rfl
@[simp] theorem cartRead16_buf (s : State) (a : Word) : (cartRead16 a s).buf = s.buf := rfl
@[simp] theorem cartRead16_seq (s : State) (a : Word) : (cartRead16 a s).seq = s.seq := rfl
@[simp] theorem cartRead16_crcacc (s : State) (a : Word) : (cartRead16 a s).crcacc = s.crcacc := rfl
@[simp] theorem cartRead16_cfg (s : State) (a : Word) : (cartRead16 a s).cfg = s.cfg := rfl
@[simp] theorem cartRead16_history (s : State) (a : Word) : (cartRead16 a s).history = .r16 a (cartValue16 a s) :: s.history := rfl
@[simp] theorem cartRead16_fsmFault (s : State) (a : Word) : (cartRead16 a s).fsmFault = s.fsmFault := rfl
@[simp] theorem cartRead16_seqFault (s : State) (a : Word) : (cartRead16 a s).seqFault = s.seqFault := rfl
@[simp] theorem cartRead16_faults (s : State) (a : Word) : (cartRead16 a s).faults = s.faults := rfl
@[simp] theorem cartRead16_inputs (s : State) (a : Word) : (cartRead16 a s).inputs = s.inputs := rfl
@[simp] theorem cartRead16_cart16 (s : State) (a : Word) : (cartRead16 a s).cart16 = s.cart16.tail := rfl
@[simp] theorem cartRead16_cart8 (s : State) (a : Word) : (cartRead16 a s).cart8 = s.cart8 := rfl
@[simp] theorem cartRead16_saveReads (s : State) (a : Word) : (cartRead16 a s).saveReads = s.saveReads := rfl
@[simp] theorem cartRead16_saveWrites (s : State) (a : Word) : (cartRead16 a s).saveWrites = s.saveWrites := rfl
@[simp] theorem cartRead16_draws (s : State) (a : Word) : (cartRead16 a s).draws = s.draws + 1 := rfl

@[simp] theorem cartWrite16_state (s : State) (a : Word) (v : Halfword) : (cartWrite16 a v s).state = s.state := rfl
@[simp] theorem cartWrite16_len (s : State) (a : Word) (v : Halfword) : (cartWrite16 a v s).len = s.len := rfl
@[simp] theorem cartWrite16_off (s : State) (a : Word) (v : Halfword) : (cartWrite16 a v s).off = s.off := rfl
@[simp] theorem cartWrite16_wcr (s : State) (a : Word) (v : Halfword) : (cartWrite16 a v s).wcr = s.wcr := rfl
@[simp] theorem cartWrite16_txd (s : State) (a : Word) (v : Halfword) : (cartWrite16 a v s).txd = s.txd := rfl
@[simp] theorem cartWrite16_buf (s : State) (a : Word) (v : Halfword) : (cartWrite16 a v s).buf = s.buf := rfl
@[simp] theorem cartWrite16_seq (s : State) (a : Word) (v : Halfword) : (cartWrite16 a v s).seq = s.seq := rfl
@[simp] theorem cartWrite16_crcacc (s : State) (a : Word) (v : Halfword) : (cartWrite16 a v s).crcacc = s.crcacc := rfl
@[simp] theorem cartWrite16_cfg (s : State) (a : Word) (v : Halfword) : (cartWrite16 a v s).cfg = s.cfg := rfl
@[simp] theorem cartWrite16_history (s : State) (a : Word) (v : Halfword) : (cartWrite16 a v s).history = .w16 a v :: s.history := rfl
@[simp] theorem cartWrite16_fsmFault (s : State) (a : Word) (v : Halfword) : (cartWrite16 a v s).fsmFault = s.fsmFault := rfl
@[simp] theorem cartWrite16_seqFault (s : State) (a : Word) (v : Halfword) : (cartWrite16 a v s).seqFault = s.seqFault := rfl
@[simp] theorem cartWrite16_faults (s : State) (a : Word) (v : Halfword) : (cartWrite16 a v s).faults = s.faults := rfl
@[simp] theorem cartWrite16_inputs (s : State) (a : Word) (v : Halfword) : (cartWrite16 a v s).inputs = s.inputs := rfl
@[simp] theorem cartWrite16_cart16 (s : State) (a : Word) (v : Halfword) : (cartWrite16 a v s).cart16 = s.cart16 := rfl
@[simp] theorem cartWrite16_cart8 (s : State) (a : Word) (v : Halfword) : (cartWrite16 a v s).cart8 = s.cart8 := rfl
@[simp] theorem cartWrite16_saveReads (s : State) (a : Word) (v : Halfword) : (cartWrite16 a v s).saveReads = s.saveReads := rfl
@[simp] theorem cartWrite16_saveWrites (s : State) (a : Word) (v : Halfword) : (cartWrite16 a v s).saveWrites = s.saveWrites := rfl
@[simp] theorem cartWrite16_draws (s : State) (a : Word) (v : Halfword) : (cartWrite16 a v s).draws = s.draws := rfl

@[simp] theorem cartRead8_state (s : State) (a : Word) : (cartRead8 a s).state = s.state := rfl
@[simp] theorem cartRead8_len (s : State) (a : Word) : (cartRead8 a s).len = s.len := rfl
@[simp] theorem cartRead8_off (s : State) (a : Word) : (cartRead8 a s).off = s.off := rfl
@[simp] theorem cartRead8_wcr (s : State) (a : Word) : (cartRead8 a s).wcr = s.wcr := rfl
@[simp] theorem cartRead8_txd (s : State) (a : Word) : (cartRead8 a s).txd = s.txd := rfl
@[simp] theorem cartRead8_buf (s : State) (a : Word) : (cartRead8 a s).buf = s.buf := rfl
@[simp] theorem cartRead8_seq (s : State) (a : Word) : (cartRead8 a s).seq = s.seq := rfl
@[simp] theorem cartRead8_crcacc (s : State) (a : Word) : (cartRead8 a s).crcacc = s.crcacc := rfl
@[simp] theorem cartRead8_cfg (s : State) (a : Word) : (cartRead8 a s).cfg = s.cfg := rfl
@[simp] theorem cartRead8_history (s : State) (a : Word) : (cartRead8 a s).history = .r8 a (cartValue8 a s) :: s.history := rfl
@[simp] theorem cartRead8_fsmFault (s : State) (a : Word) : (cartRead8 a s).fsmFault = s.fsmFault := rfl
@[simp] theorem cartRead8_seqFault (s : State) (a : Word) : (cartRead8 a s).seqFault = s.seqFault := rfl
@[simp] theorem cartRead8_faults (s : State) (a : Word) : (cartRead8 a s).faults = s.faults := rfl
@[simp] theorem cartRead8_inputs (s : State) (a : Word) : (cartRead8 a s).inputs = s.inputs := rfl
@[simp] theorem cartRead8_cart16 (s : State) (a : Word) : (cartRead8 a s).cart16 = s.cart16 := rfl
@[simp] theorem cartRead8_cart8 (s : State) (a : Word) : (cartRead8 a s).cart8 = s.cart8.tail := rfl
@[simp] theorem cartRead8_saveReads (s : State) (a : Word) : (cartRead8 a s).saveReads = s.saveReads := rfl
@[simp] theorem cartRead8_saveWrites (s : State) (a : Word) : (cartRead8 a s).saveWrites = s.saveWrites := rfl
@[simp] theorem cartRead8_draws (s : State) (a : Word) : (cartRead8 a s).draws = s.draws + 1 := rfl

@[simp] theorem cartWrite8_state (s : State) (a : Word) (v : Byte) : (cartWrite8 a v s).state = s.state := rfl
@[simp] theorem cartWrite8_len (s : State) (a : Word) (v : Byte) : (cartWrite8 a v s).len = s.len := rfl
@[simp] theorem cartWrite8_off (s : State) (a : Word) (v : Byte) : (cartWrite8 a v s).off = s.off := rfl
@[simp] theorem cartWrite8_wcr (s : State) (a : Word) (v : Byte) : (cartWrite8 a v s).wcr = s.wcr := rfl
@[simp] theorem cartWrite8_txd (s : State) (a : Word) (v : Byte) : (cartWrite8 a v s).txd = s.txd := rfl
@[simp] theorem cartWrite8_buf (s : State) (a : Word) (v : Byte) : (cartWrite8 a v s).buf = s.buf := rfl
@[simp] theorem cartWrite8_seq (s : State) (a : Word) (v : Byte) : (cartWrite8 a v s).seq = s.seq := rfl
@[simp] theorem cartWrite8_crcacc (s : State) (a : Word) (v : Byte) : (cartWrite8 a v s).crcacc = s.crcacc := rfl
@[simp] theorem cartWrite8_cfg (s : State) (a : Word) (v : Byte) : (cartWrite8 a v s).cfg = s.cfg := rfl
@[simp] theorem cartWrite8_history (s : State) (a : Word) (v : Byte) : (cartWrite8 a v s).history = .w8 a v :: s.history := rfl
@[simp] theorem cartWrite8_fsmFault (s : State) (a : Word) (v : Byte) : (cartWrite8 a v s).fsmFault = s.fsmFault := rfl
@[simp] theorem cartWrite8_seqFault (s : State) (a : Word) (v : Byte) : (cartWrite8 a v s).seqFault = s.seqFault := rfl
@[simp] theorem cartWrite8_faults (s : State) (a : Word) (v : Byte) : (cartWrite8 a v s).faults = s.faults := rfl
@[simp] theorem cartWrite8_inputs (s : State) (a : Word) (v : Byte) : (cartWrite8 a v s).inputs = s.inputs := rfl
@[simp] theorem cartWrite8_cart16 (s : State) (a : Word) (v : Byte) : (cartWrite8 a v s).cart16 = s.cart16 := rfl
@[simp] theorem cartWrite8_cart8 (s : State) (a : Word) (v : Byte) : (cartWrite8 a v s).cart8 = s.cart8 := rfl
@[simp] theorem cartWrite8_saveReads (s : State) (a : Word) (v : Byte) : (cartWrite8 a v s).saveReads = s.saveReads := rfl
@[simp] theorem cartWrite8_saveWrites (s : State) (a : Word) (v : Byte) : (cartWrite8 a v s).saveWrites = s.saveWrites := rfl
@[simp] theorem cartWrite8_draws (s : State) (a : Word) (v : Byte) : (cartWrite8 a v s).draws = s.draws := rfl

@[simp] theorem askSaveRead_state (s : State) : (askSaveRead s).state = s.state := rfl
@[simp] theorem askSaveRead_len (s : State) : (askSaveRead s).len = s.len := rfl
@[simp] theorem askSaveRead_off (s : State) : (askSaveRead s).off = s.off := rfl
@[simp] theorem askSaveRead_wcr (s : State) : (askSaveRead s).wcr = s.wcr := rfl
@[simp] theorem askSaveRead_txd (s : State) : (askSaveRead s).txd = s.txd := rfl
@[simp] theorem askSaveRead_buf (s : State) : (askSaveRead s).buf = s.buf := rfl
@[simp] theorem askSaveRead_seq (s : State) : (askSaveRead s).seq = s.seq := rfl
@[simp] theorem askSaveRead_crcacc (s : State) : (askSaveRead s).crcacc = s.crcacc := rfl
@[simp] theorem askSaveRead_cfg (s : State) : (askSaveRead s).cfg = s.cfg := rfl
@[simp] theorem askSaveRead_history (s : State) : (askSaveRead s).history = s.history := rfl
@[simp] theorem askSaveRead_fsmFault (s : State) : (askSaveRead s).fsmFault = s.fsmFault := rfl
@[simp] theorem askSaveRead_seqFault (s : State) : (askSaveRead s).seqFault = s.seqFault := rfl
@[simp] theorem askSaveRead_faults (s : State) : (askSaveRead s).faults = s.faults := rfl
@[simp] theorem askSaveRead_inputs (s : State) : (askSaveRead s).inputs = s.inputs := rfl
@[simp] theorem askSaveRead_cart16 (s : State) : (askSaveRead s).cart16 = s.cart16 := rfl
@[simp] theorem askSaveRead_cart8 (s : State) : (askSaveRead s).cart8 = s.cart8 := rfl
@[simp] theorem askSaveRead_saveReads (s : State) : (askSaveRead s).saveReads = s.saveReads.tail := rfl
@[simp] theorem askSaveRead_saveWrites (s : State) : (askSaveRead s).saveWrites = s.saveWrites := rfl
@[simp] theorem askSaveRead_draws (s : State) : (askSaveRead s).draws = s.draws + 1 := rfl

@[simp] theorem askSaveWrite_state (s : State) : (askSaveWrite s).state = s.state := rfl
@[simp] theorem askSaveWrite_len (s : State) : (askSaveWrite s).len = s.len := rfl
@[simp] theorem askSaveWrite_off (s : State) : (askSaveWrite s).off = s.off := rfl
@[simp] theorem askSaveWrite_wcr (s : State) : (askSaveWrite s).wcr = s.wcr := rfl
@[simp] theorem askSaveWrite_txd (s : State) : (askSaveWrite s).txd = s.txd := rfl
@[simp] theorem askSaveWrite_buf (s : State) : (askSaveWrite s).buf = s.buf := rfl
@[simp] theorem askSaveWrite_seq (s : State) : (askSaveWrite s).seq = s.seq := rfl
@[simp] theorem askSaveWrite_crcacc (s : State) : (askSaveWrite s).crcacc = s.crcacc := rfl
@[simp] theorem askSaveWrite_cfg (s : State) : (askSaveWrite s).cfg = s.cfg := rfl
@[simp] theorem askSaveWrite_history (s : State) : (askSaveWrite s).history = s.history := rfl
@[simp] theorem askSaveWrite_fsmFault (s : State) : (askSaveWrite s).fsmFault = s.fsmFault := rfl
@[simp] theorem askSaveWrite_seqFault (s : State) : (askSaveWrite s).seqFault = s.seqFault := rfl
@[simp] theorem askSaveWrite_faults (s : State) : (askSaveWrite s).faults = s.faults := rfl
@[simp] theorem askSaveWrite_inputs (s : State) : (askSaveWrite s).inputs = s.inputs := rfl
@[simp] theorem askSaveWrite_cart16 (s : State) : (askSaveWrite s).cart16 = s.cart16 := rfl
@[simp] theorem askSaveWrite_cart8 (s : State) : (askSaveWrite s).cart8 = s.cart8 := rfl
@[simp] theorem askSaveWrite_saveReads (s : State) : (askSaveWrite s).saveReads = s.saveReads := rfl
@[simp] theorem askSaveWrite_saveWrites (s : State) : (askSaveWrite s).saveWrites = s.saveWrites.tail := rfl
@[simp] theorem askSaveWrite_draws (s : State) : (askSaveWrite s).draws = s.draws + 1 := rfl

@[simp] theorem resetEvent_state (s : State) : (resetEvent s).state = .idle := rfl
@[simp] theorem resetEvent_len (s : State) : (resetEvent s).len = 0 := rfl
@[simp] theorem resetEvent_off (s : State) : (resetEvent s).off = 0 := rfl
@[simp] theorem resetEvent_wcr (s : State) : (resetEvent s).wcr = Config.resetWcr s.draws := rfl
@[simp] theorem resetEvent_txd (s : State) : (resetEvent s).txd = Config.resetTxd s.draws := rfl
@[simp] theorem resetEvent_buf (s : State) : (resetEvent s).buf = Memory.ofBytes (Config.resetByte s.draws) := by
  simp only [resetEvent]
@[simp] theorem resetEvent_seq (s : State) : (resetEvent s).seq = .idle := rfl
@[simp] theorem resetEvent_crcacc (s : State) : (resetEvent s).crcacc = s.crcacc := rfl
@[simp] theorem resetEvent_cfg (s : State) : (resetEvent s).cfg = s.cfg := rfl
@[simp] theorem resetEvent_history (s : State) : (resetEvent s).history = .reset :: s.history := rfl
@[simp] theorem resetEvent_fsmFault (s : State) : (resetEvent s).fsmFault = none := rfl
@[simp] theorem resetEvent_seqFault (s : State) : (resetEvent s).seqFault = none := rfl
@[simp] theorem resetEvent_faults (s : State) : (resetEvent s).faults = s.faults := rfl
@[simp] theorem resetEvent_inputs (s : State) : (resetEvent s).inputs = s.inputs := rfl
@[simp] theorem resetEvent_cart16 (s : State) : (resetEvent s).cart16 = s.cart16 := rfl
@[simp] theorem resetEvent_cart8 (s : State) : (resetEvent s).cart8 = s.cart8 := rfl
@[simp] theorem resetEvent_saveReads (s : State) : (resetEvent s).saveReads = s.saveReads := rfl
@[simp] theorem resetEvent_saveWrites (s : State) : (resetEvent s).saveWrites = s.saveWrites := rfl
@[simp] theorem resetEvent_draws (s : State) : (resetEvent s).draws = s.draws + 1 := rfl
@[simp] theorem toResult_state (s : State) (c r : Word) (l : SeqLocals) : (s.toResult c r l).state = s.state := rfl
@[simp] theorem toResult_len (s : State) (c r : Word) (l : SeqLocals) : (s.toResult c r l).len = s.len := rfl
@[simp] theorem toResult_off (s : State) (c r : Word) (l : SeqLocals) : (s.toResult c r l).off = s.off := rfl
@[simp] theorem toResult_wcr (s : State) (c r : Word) (l : SeqLocals) : (s.toResult c r l).wcr = s.wcr := rfl
@[simp] theorem toResult_txd (s : State) (c r : Word) (l : SeqLocals) : (s.toResult c r l).txd = s.txd := rfl
@[simp] theorem toResult_buf (s : State) (c r : Word) (l : SeqLocals) : (s.toResult c r l).buf = s.buf := rfl
@[simp] theorem toResult_seq (s : State) (c r : Word) (l : SeqLocals) : (s.toResult c r l).seq = .running c .writeResult { l with result := r } := rfl
@[simp] theorem toResult_crcacc (s : State) (c r : Word) (l : SeqLocals) : (s.toResult c r l).crcacc = s.crcacc := rfl
@[simp] theorem toResult_cfg (s : State) (c r : Word) (l : SeqLocals) : (s.toResult c r l).cfg = s.cfg := rfl
@[simp] theorem toResult_history (s : State) (c r : Word) (l : SeqLocals) : (s.toResult c r l).history = s.history := rfl
@[simp] theorem toResult_fsmFault (s : State) (c r : Word) (l : SeqLocals) : (s.toResult c r l).fsmFault = s.fsmFault := rfl
@[simp] theorem toResult_seqFault (s : State) (c r : Word) (l : SeqLocals) : (s.toResult c r l).seqFault = s.seqFault := rfl
@[simp] theorem toResult_faults (s : State) (c r : Word) (l : SeqLocals) : (s.toResult c r l).faults = s.faults := rfl
@[simp] theorem toResult_inputs (s : State) (c r : Word) (l : SeqLocals) : (s.toResult c r l).inputs = s.inputs := rfl
@[simp] theorem toResult_cart16 (s : State) (c r : Word) (l : SeqLocals) : (s.toResult c r l).cart16 = s.cart16 := rfl
@[simp] theorem toResult_cart8 (s : State) (c r : Word) (l : SeqLocals) : (s.toResult c r l).cart8 = s.cart8 := rfl
@[simp] theorem toResult_saveReads (s : State) (c r : Word) (l : SeqLocals) : (s.toResult c r l).saveReads = s.saveReads := rfl
@[simp] theorem toResult_saveWrites (s : State) (c r : Word) (l : SeqLocals) : (s.toResult c r l).saveWrites = s.saveWrites := rfl
@[simp] theorem toResult_draws (s : State) (c r : Word) (l : SeqLocals) : (s.toResult c r l).draws = s.draws := rfl

@[simp] theorem afterSave_state (o : SaveOutcome) (c : Word) (l : SeqLocals) (s : State) :
    (afterSave o c l s).state = s.state := by cases o <;> rfl

@[simp] theorem afterSave_len (o : SaveOutcome) (c : Word) (l : SeqLocals) (s : State) :
    (afterSave o c l s).len = s.len := by cases o <;> rfl

@[simp] theorem afterSave_off (o : SaveOutcome) (c : Word) (l : SeqLocals) (s : State) :
    (afterSave o c l s).off = s.off := by cases o <;> rfl

@[simp] theorem afterSave_wcr (o : SaveOutcome) (c : Word) (l : SeqLocals) (s : State) :
    (afterSave o c l s).wcr = s.wcr := by cases o <;> rfl

@[simp] theorem afterSave_txd (o : SaveOutcome) (c : Word) (l : SeqLocals) (s : State) :
    (afterSave o c l s).txd = s.txd := by cases o <;> rfl

@[simp] theorem afterSave_buf (o : SaveOutcome) (c : Word) (l : SeqLocals) (s : State) :
    (afterSave o c l s).buf = s.buf := by cases o <;> rfl

@[simp] theorem afterSave_crcacc (o : SaveOutcome) (c : Word) (l : SeqLocals) (s : State) :
    (afterSave o c l s).crcacc = s.crcacc := by cases o <;> rfl

@[simp] theorem afterSave_cfg (o : SaveOutcome) (c : Word) (l : SeqLocals) (s : State) :
    (afterSave o c l s).cfg = s.cfg := by cases o <;> rfl

@[simp] theorem afterSave_history (o : SaveOutcome) (c : Word) (l : SeqLocals) (s : State) :
    (afterSave o c l s).history = s.history := by cases o <;> rfl

@[simp] theorem afterSave_inputs (o : SaveOutcome) (c : Word) (l : SeqLocals) (s : State) :
    (afterSave o c l s).inputs = s.inputs := by cases o <;> rfl

@[simp] theorem afterSave_cart16 (o : SaveOutcome) (c : Word) (l : SeqLocals) (s : State) :
    (afterSave o c l s).cart16 = s.cart16 := by cases o <;> rfl

@[simp] theorem afterSave_cart8 (o : SaveOutcome) (c : Word) (l : SeqLocals) (s : State) :
    (afterSave o c l s).cart8 = s.cart8 := by cases o <;> rfl

@[simp] theorem afterSave_saveReads (o : SaveOutcome) (c : Word) (l : SeqLocals) (s : State) :
    (afterSave o c l s).saveReads = s.saveReads := by cases o <;> rfl

@[simp] theorem afterSave_saveWrites (o : SaveOutcome) (c : Word) (l : SeqLocals) (s : State) :
    (afterSave o c l s).saveWrites = s.saveWrites := by cases o <;> rfl

@[simp] theorem afterSave_draws (o : SaveOutcome) (c : Word) (l : SeqLocals) (s : State) :
    (afterSave o c l s).draws = s.draws := by cases o <;> rfl

@[simp] theorem afterSave_fsmFault (o : SaveOutcome) (c : Word) (l : SeqLocals) (s : State) :
    (afterSave o c l s).fsmFault = s.fsmFault := by cases o <;> rfl

@[simp] theorem afterSave_seqFault (o : SaveOutcome) (c : Word) (l : SeqLocals) (s : State) :
    (afterSave o c l s).seqFault = s.seqFault := by cases o <;> rfl

@[simp] theorem afterSave_faults (o : SaveOutcome) (c : Word) (l : SeqLocals) (s : State) :
    (afterSave o c l s).faults = s.faults := by cases o <;> rfl

@[simp] theorem stopFsm_state (s : State) (i : Nat) : (s.stopFsm i).state = s.state := rfl
@[simp] theorem stopFsm_len (s : State) (i : Nat) : (s.stopFsm i).len = s.len := rfl
@[simp] theorem stopFsm_off (s : State) (i : Nat) : (s.stopFsm i).off = s.off := rfl
@[simp] theorem stopFsm_wcr (s : State) (i : Nat) : (s.stopFsm i).wcr = s.wcr := rfl
@[simp] theorem stopFsm_txd (s : State) (i : Nat) : (s.stopFsm i).txd = s.txd := rfl
@[simp] theorem stopFsm_buf (s : State) (i : Nat) : (s.stopFsm i).buf = s.buf := rfl
@[simp] theorem stopFsm_seq (s : State) (i : Nat) : (s.stopFsm i).seq = s.seq := rfl
@[simp] theorem stopFsm_crcacc (s : State) (i : Nat) : (s.stopFsm i).crcacc = s.crcacc := rfl
@[simp] theorem stopFsm_cfg (s : State) (i : Nat) : (s.stopFsm i).cfg = s.cfg := rfl
@[simp] theorem stopFsm_history (s : State) (i : Nat) : (s.stopFsm i).history = s.history := rfl
@[simp] theorem stopFsm_fsmFault (s : State) (i : Nat) : (s.stopFsm i).fsmFault = some i := rfl
@[simp] theorem stopFsm_seqFault (s : State) (i : Nat) : (s.stopFsm i).seqFault = s.seqFault := rfl
@[simp] theorem stopFsm_faults (s : State) (i : Nat) : (s.stopFsm i).faults = i :: s.faults := rfl
@[simp] theorem stopFsm_inputs (s : State) (i : Nat) : (s.stopFsm i).inputs = s.inputs := rfl
@[simp] theorem stopFsm_cart16 (s : State) (i : Nat) : (s.stopFsm i).cart16 = s.cart16 := rfl
@[simp] theorem stopFsm_cart8 (s : State) (i : Nat) : (s.stopFsm i).cart8 = s.cart8 := rfl
@[simp] theorem stopFsm_saveReads (s : State) (i : Nat) : (s.stopFsm i).saveReads = s.saveReads := rfl
@[simp] theorem stopFsm_saveWrites (s : State) (i : Nat) : (s.stopFsm i).saveWrites = s.saveWrites := rfl
@[simp] theorem stopFsm_draws (s : State) (i : Nat) : (s.stopFsm i).draws = s.draws := rfl

@[simp] theorem stopSeq_state (s : State) (i : Nat) : (s.stopSeq i).state = s.state := rfl
@[simp] theorem stopSeq_len (s : State) (i : Nat) : (s.stopSeq i).len = s.len := rfl
@[simp] theorem stopSeq_off (s : State) (i : Nat) : (s.stopSeq i).off = s.off := rfl
@[simp] theorem stopSeq_wcr (s : State) (i : Nat) : (s.stopSeq i).wcr = s.wcr := rfl
@[simp] theorem stopSeq_txd (s : State) (i : Nat) : (s.stopSeq i).txd = s.txd := rfl
@[simp] theorem stopSeq_buf (s : State) (i : Nat) : (s.stopSeq i).buf = s.buf := rfl
@[simp] theorem stopSeq_seq (s : State) (i : Nat) : (s.stopSeq i).seq = s.seq := rfl
@[simp] theorem stopSeq_crcacc (s : State) (i : Nat) : (s.stopSeq i).crcacc = s.crcacc := rfl
@[simp] theorem stopSeq_cfg (s : State) (i : Nat) : (s.stopSeq i).cfg = s.cfg := rfl
@[simp] theorem stopSeq_history (s : State) (i : Nat) : (s.stopSeq i).history = s.history := rfl
@[simp] theorem stopSeq_fsmFault (s : State) (i : Nat) : (s.stopSeq i).fsmFault = s.fsmFault := rfl
@[simp] theorem stopSeq_seqFault (s : State) (i : Nat) : (s.stopSeq i).seqFault = some i := rfl
@[simp] theorem stopSeq_faults (s : State) (i : Nat) : (s.stopSeq i).faults = i :: s.faults := rfl
@[simp] theorem stopSeq_inputs (s : State) (i : Nat) : (s.stopSeq i).inputs = s.inputs := rfl
@[simp] theorem stopSeq_cart16 (s : State) (i : Nat) : (s.stopSeq i).cart16 = s.cart16 := rfl
@[simp] theorem stopSeq_cart8 (s : State) (i : Nat) : (s.stopSeq i).cart8 = s.cart8 := rfl
@[simp] theorem stopSeq_saveReads (s : State) (i : Nat) : (s.stopSeq i).saveReads = s.saveReads := rfl
@[simp] theorem stopSeq_saveWrites (s : State) (i : Nat) : (s.stopSeq i).saveWrites = s.saveWrites := rfl
@[simp] theorem stopSeq_draws (s : State) (i : Nat) : (s.stopSeq i).draws = s.draws := rfl

@[simp] theorem after_bufferRange (i : Nat) (t : State) : (Fault.bufferRange i t).after = t := rfl

end Sys2Proof.Laws
end

