-- ==== Sys2Proof/Laws/Ops.lean ====
section
/-! SUPPORT. For each shared operation, once, all it can do. Later proofs cite these and do not unfold the operation. -/

namespace Sys2Proof.Laws

open Sys2Proof.Machine

/-! ### Range-checked Buffer accesses: the continuation runs inside the Buffer, and outside it there is only the fault -/

theorem loadBuf8_inside {i : Nat} (s : State) (k : Byte → Result) (h : i < bufBytes) :
    loadBuf8 i s k = k (buf8 s.buf i) := if_pos h

theorem loadBuf8_outside {i : Nat} (s : State) (k : Byte → Result) (h : ¬ i < bufBytes) :
    loadBuf8 i s k = raiseSeq i s := if_neg h

theorem loadBuf16_inside {i : Nat} (s : State) (k : Halfword → Result) (h : i < bufHalfwords) :
    loadBuf16 i s k = k (buf16 s.buf i) := if_pos h

theorem loadBuf16_outside {i : Nat} (s : State) (k : Halfword → Result) (h : ¬ i < bufHalfwords) :
    loadBuf16 i s k = raiseSeq i s := if_neg h

theorem loadBuf32_inside {i : Nat} (s : State) (k : Word → Result) (h : i < bufWords) :
    loadBuf32 i s k = k (buf32 s.buf i) := if_pos h

theorem loadBuf32_outside {i : Nat} (s : State) (k : Word → Result) (h : ¬ i < bufWords) :
    loadBuf32 i s k = raiseFsm i s := if_neg h

theorem storeBuf8_inside {i : Nat} (v : Byte) (s : State) (k : State → Result) (h : i < bufBytes) :
    storeBuf8 i v s k = k (s.setBuf (setBuf8 s.buf i v)) := if_pos h

theorem storeBuf8_outside {i : Nat} (v : Byte) (s : State) (k : State → Result) (h : ¬ i < bufBytes) :
    storeBuf8 i v s k = raiseSeq i s := if_neg h

theorem storeBuf16_inside {i : Nat} (v : Halfword) (s : State) (k : State → Result) (h : i < bufHalfwords) :
    storeBuf16 i v s k = k (s.setBuf (setBuf16 s.buf i v)) := if_pos h

theorem storeBuf16_outside {i : Nat} (v : Halfword) (s : State) (k : State → Result) (h : ¬ i < bufHalfwords) :
    storeBuf16 i v s k = raiseSeq i s := if_neg h

theorem storeBuf32_inside {i : Nat} (v : Word) (s : State) (k : State → Result) (h : i < bufWords) :
    storeBuf32 i v s k = k (s.setBuf (setBuf32 s.buf i v)) := if_pos h

theorem storeBuf32_outside {i : Nat} (v : Word) (s : State) (k : State → Result) (h : ¬ i < bufWords) :
    storeBuf32 i v s k = raiseFsm i s := if_neg h

/-- The first word of the Buffer is always there: DOWNLOAD's command step cannot fault (R104). -/
theorem loadBuf32_zero (s : State) (k : Word → Result) : loadBuf32 0 s k = k (buf32 s.buf 0) :=
  loadBuf32_inside s k (by decide)

/-- A raised fault carries its index and the state in which its agent has stopped. -/
theorem raiseFsm_eq (i : Nat) (s : State) : raiseFsm i s = .fault (.bufferRange i (s.stopFsm i)) := rfl

theorem raiseSeq_eq (i : Nat) (s : State) : raiseSeq i s = .fault (.bufferRange i (s.stopSeq i)) := rfl

/-! ### The cartridge: an answer in store is the value read, and is used up -/

@[simp] theorem cartValue16_listed (a : Word) (s : State) (v : Halfword) (vs : List Halfword) (h : s.cart16 = v :: vs) :
    cartValue16 a s = v := by simp [cartValue16, h]

theorem cartValue16_free (a : Word) (s : State) (h : s.cart16 = []) :
    cartValue16 a s = Config.cartAnswer16 s.draws a := by simp [cartValue16, h]

@[simp] theorem cartValue8_listed (a : Word) (s : State) (v : Byte) (vs : List Byte) (h : s.cart8 = v :: vs) :
    cartValue8 a s = v := by simp [cartValue8, h]

theorem cartValue8_free (a : Word) (s : State) (h : s.cart8 = []) :
    cartValue8 a s = Config.cartAnswer8 s.draws a := by simp [cartValue8, h]

theorem length_saveReadBytes (n : Param) (ans : SaveReadAnswer) (s : State) :
    (saveReadBytes n ans s).length = byteLength n := by simp [saveReadBytes]

/-! ### The sequencer's shared micro-steps -/

/-- Completion is the result, then the state; at any other position it is the refusal. -/
theorem completeOperation_cases (cmd : Word) (pos : SeqPos) (l : SeqLocals) (s : State) :
    (pos = .writeResult ∧ completeOperation cmd pos l s = .next ((s.latch l.result).toPos cmd .release l)) ∨
    (pos = .release ∧ completeOperation cmd pos l s = .next s.releaseSeq) ∨
    (pos ≠ .writeResult ∧ pos ≠ .release ∧
      completeOperation cmd pos l s = .refused (.notAtThisOperation pos)) := by
  cases pos <;> simp [completeOperation]

theorem pollStatus_ready {a cmd : Word} {pos : SeqPos} {l : SeqLocals} {s : State} (k : SeqLocals → State → Result)
    (h : statusReady s.cfg (cartValue16 a s) = true) :
    pollStatus a cmd pos l s k = k { l with status := cartValue16 a s } (cartRead16 a s) := if_pos h

theorem pollStatus_busy {a cmd : Word} {pos : SeqPos} {l : SeqLocals} {s : State} (k : SeqLocals → State → Result)
    (h : statusReady s.cfg (cartValue16 a s) = false) :
    pollStatus a cmd pos l s k = .next ((cartRead16 a s).toPos cmd pos { l with status := cartValue16 a s }) :=
  if_neg (by simp [h])

/-- A save read's transaction always has a next state: it waits, or it is recorded and the bytes are at hand. -/
theorem saveReadTransfer_cases (kind : SaveKind) (stay copy : SeqPos) (cmd : Word) (l : SeqLocals) (s : State) :
    (saveReadAnswer s = none ∧ saveReadTransfer kind stay copy cmd l s = .next ((askSaveRead s).toPos cmd stay l)) ∨
    ∃ ans l' s', saveReadAnswer s = some ans ∧
      l' = { l with bytes := saveReadBytes l.n ans s, outcome := ans.outcome } ∧
      s' = (askSaveRead s).record (.saveRd kind l.n (saveReadBytes l.n ans s) ans.outcome) ∧
      saveReadTransfer kind stay copy cmd l s =
        .next (if byteLength l.n = 0 then afterSave ans.outcome cmd l' s' else s'.toPos cmd copy l') := by
  cases h : saveReadAnswer s with
  | none => exact .inl ⟨rfl, by simp [saveReadTransfer, h]⟩
  | some ans => exact .inr ⟨ans, _, _, rfl, rfl, rfl, by simp [saveReadTransfer, h]⟩

/-- A save write's transaction always has a next state: it waits, or it is recorded. -/
theorem saveWriteTransfer_cases (kind : SaveKind) (stay : SeqPos) (cmd : Word) (l : SeqLocals) (s : State) :
    (saveWriteAnswer s = none ∧ saveWriteTransfer kind stay cmd l s = .next ((askSaveWrite s).toPos cmd stay l)) ∨
    ∃ o, saveWriteAnswer s = some o ∧
      saveWriteTransfer kind stay cmd l s =
        .next (afterSave o cmd { l with outcome := o } ((askSaveWrite s).record (.saveWr kind l.n l.bytes o))) := by
  cases h : saveWriteAnswer s with
  | none => exact .inl ⟨rfl, by simp [saveWriteTransfer, h]⟩
  | some o => exact .inr ⟨o, rfl, by simp [saveWriteTransfer, h]⟩

/-- One byte of the copy: nothing left, stored, or the fault. -/
theorem saveReadCopy_cases (copy : SeqPos) (cmd : Word) (l : SeqLocals) (s : State) :
    (l.bytes = [] ∧ saveReadCopy copy cmd l s = .next (afterSave l.outcome cmd l s)) ∨
    (∃ b rest l' s', l.bytes = b :: rest ∧ l.i < bufBytes ∧
      l' = { l with bytes := rest, i := l.i + 1 } ∧ s' = s.setBuf (setBuf8 s.buf l.i b) ∧
      saveReadCopy copy cmd l s =
        .next (if rest = [] then afterSave l.outcome cmd l' s' else s'.toPos cmd copy l')) ∨
    (l.bytes ≠ [] ∧ ¬ l.i < bufBytes ∧ saveReadCopy copy cmd l s = raiseSeq l.i s) := by
  cases hb : l.bytes with
  | nil => exact .inl ⟨rfl, by simp [saveReadCopy, hb]⟩
  | cons b rest =>
    by_cases hi : l.i < bufBytes
    · exact .inr (.inl ⟨b, rest, _, _, rfl, hi, rfl, rfl, by simp [saveReadCopy, hb, storeBuf8_inside, hi]⟩)
    · exact .inr (.inr ⟨by simp, hi, by simp [saveReadCopy, hb, storeBuf8_outside, hi]⟩)

/-! ### The end of an `Uploading` step -/

theorem uploadingEnd_more {s : State} (h : s.off < s.len) : uploadingEnd s = .next (s.emit s.cfg.idleWord) := by
  rw [uploadingEnd, if_pos h]

theorem uploadingEnd_done {s : State} (h : ¬ s.off < s.len) :
    uploadingEnd s = .next ((s.goto .idle).emit s.cfg.idleWord) := by rw [uploadingEnd, if_neg h]

/-! ### Step: which agent moves -/

theorem step_nil {s : State} (h : s.inputs = []) : step s = sequencerTurn s := by simp [step, h]

theorem step_exchange {s : State} {rx : Word} {rest : List Input} (h : s.inputs = .exchange rx :: rest) :
    step s = exchange rx (s.withInputs rest) := by simp [step, h]

theorem step_sequencer {s : State} {rest : List Input} (h : s.inputs = .sequencer :: rest) :
    step s = sequencerTurn (s.withInputs rest) := by simp [step, h]

theorem step_reset {s : State} {rest : List Input} (h : s.inputs = .reset :: rest) :
    step s = .next (resetEvent (s.withInputs rest)) := by simp [step, h]

theorem sequencerTurn_enabled {s : State} (h : s.state = .workerBusy) (hf : s.seqFault = none) :
    sequencerTurn s = exec (sequencerInstr s) s := by simp [sequencerTurn, sequencerEnabled, h, hf]

theorem sequencerTurn_disabled {s : State} (h : s.state ≠ .workerBusy) : sequencerTurn s = .next s := by
  simp [sequencerTurn, sequencerEnabled, h]

/-- A sequencer that has stopped after a fault moves nothing. -/
theorem sequencerTurn_stopped {s : State} {i : Nat} (h : s.seqFault = some i) : sequencerTurn s = .next s := by
  simp [sequencerTurn, sequencerEnabled, h]

theorem exchange_running {s : State} (rx : Word) (h : s.fsmFault = none) :
    exchange rx s = exec (incomingInstr rx s) (takeExchange rx s) := by simp [exchange, h]

/-- An FSM that has stopped after a fault answers an exchange with that fault, and the state is as it was. -/
theorem exchange_stopped {s : State} {i : Nat} (rx : Word) (h : s.fsmFault = some i) :
    exchange rx s = .fault (.bufferRange i s) := by simp [exchange, h]

/-- All that the sequencer's turn can be: its micro-step, or nothing where it has none. -/
theorem sequencerTurn_cases (s : State) :
    (s.state = .workerBusy ∧ s.seqFault = none ∧ sequencerTurn s = exec (sequencerInstr s) s) ∨
    ((s.state ≠ .workerBusy ∨ s.seqFault ≠ none) ∧ sequencerTurn s = .next s) := by
  by_cases h : s.state = .workerBusy
  · cases hf : s.seqFault with
    | none => exact .inl ⟨h, rfl, sequencerTurn_enabled h hf⟩
    | some i => exact .inr ⟨.inr (by simp), sequencerTurn_stopped hf⟩
  · exact .inr ⟨.inl h, sequencerTurn_disabled h⟩

/-- All that a step can be: an exchange served by the FSM, one offered to an FSM that has stopped, the sequencer's turn, or
the reset event. -/
theorem step_cases (s : State) :
    (∃ rx rest, s.inputs = .exchange rx :: rest ∧ s.fsmFault = none ∧
      step s = exec (incomingInstr rx s) (takeExchange rx (s.withInputs rest))) ∨
    (∃ rx rest i, s.inputs = .exchange rx :: rest ∧ s.fsmFault = some i ∧
      step s = .fault (.bufferRange i (s.withInputs rest))) ∨
    (∃ rest, (s.inputs = .sequencer :: rest ∨ (s.inputs = [] ∧ rest = [])) ∧
      step s = sequencerTurn (s.withInputs rest)) ∨
    (∃ rest, s.inputs = .reset :: rest ∧ step s = .next (resetEvent (s.withInputs rest))) := by
  match hi : s.inputs with
  | [] =>
    have hs : s.withInputs [] = s := by rw [← hi]; rfl
    exact .inr (.inr (.inl ⟨[], .inr ⟨rfl, rfl⟩, by rw [hs]; exact step_nil hi⟩))
  | .exchange rx :: rest =>
    cases hf : s.fsmFault with
    | none => exact .inl ⟨rx, rest, rfl, rfl, (step_exchange hi).trans (exchange_running rx hf)⟩
    | some i => exact .inr (.inl ⟨rx, rest, i, rfl, rfl, (step_exchange hi).trans (exchange_stopped rx hf)⟩)
  | .sequencer :: rest => exact .inr (.inr (.inl ⟨rest, .inl rfl, step_sequencer hi⟩))
  | .reset :: rest => exact .inr (.inr (.inr ⟨rest, rfl, step_reset hi⟩))

/-! ### What a step leaves, and the run that goes on past a fault -/

theorem stateAfter_next {s t : State} (h : step s = .next t) : stateAfter s = some t := by simp [stateAfter, h]

theorem stateAfter_fault {s t : State} {i : Nat} (h : step s = .fault (.bufferRange i t)) : stateAfter s = some t := by
  simp [stateAfter, h]

/-- A step leaves a state exactly where it has a next state or a fault. -/
theorem stateAfter_eq_some {s t : State} :
    stateAfter s = some t ↔ step s = .next t ∨ ∃ i, step s = .fault (.bufferRange i t) := by
  cases h : step s with
  | next u => simp [stateAfter, h]
  | fault f => obtain ⟨i, u⟩ := f; simp [stateAfter, h]
  | refused r => simp [stateAfter, h]

@[simp] theorem runOn_zero (s : State) : runOn 0 s = some s := rfl

theorem runOn_succ {s t : State} (n : Nat) (h : stateAfter s = some t) : runOn (n + 1) s = runOn n t := by
  simp [runOn, h]

end Sys2Proof.Laws
end

