-- ==== Sys2Proof/Laws/Exec.lean ====
section
/-! SUPPORT. What exec answers for each worker instruction, by the part that runs: the dispatch, the start, a micro-step of
its operation, or completion. Later proofs rewrite with these and do not unfold a meaning. -/

namespace Sys2Proof.Laws

open Sys2Proof.Machine

/-- Every worker command outside `WorkerBusy` is the dispatch of its word. -/
theorem exec_dispatch {i : Instr} {s : State} (hi : isWorkerCommand i = true) (h : s.state ≠ .workerBusy) :
    exec i s = dispatchWorker (encode s.cfg i) s := by
  cases i <;> first | exact if_neg h | cases hi

/-- Every operation completes with the shared completion. -/
theorem exec_complete {i : Instr} {s : State} {cmd : Word} {pos : SeqPos} {l : SeqLocals}
    (hi : isSequencerInstr i = true) (h : s.state = .workerBusy) (hq : s.seq = .running cmd pos l)
    (hp : pos = .writeResult ∨ pos = .release) : exec i s = completeOperation cmd pos l s := by
  obtain ⟨st, _, _, _, _, _, q, _, _, _, _, _, _, _, _, _, _, _, _⟩ := s
  simp only at h hq
  subst h hq
  cases i <;> first | (rcases hp with rfl | rfl <;> rfl) | cases hi

theorem exec_crc32_start {s : State} (n : Param) (h : s.state = .workerBusy) (hq : s.seq = .idle) :
    exec (.crc32 n) s = .next (crcContinue s.wcr { n := n } (s.setAcc crcInit)) := by
  simp only [exec, execCrc32, h, hq, if_true]

theorem exec_crc32_micro {s : State} {cmd : Word} {l : SeqLocals} (n : Param) (h : s.state = .workerBusy)
    (hq : s.seq = .running cmd .crcByte l) : exec (.crc32 n) s = crcMicroStep cmd l s := by
  simp only [exec, execCrc32, h, hq, if_true]

theorem exec_readSram_start {s : State} (n : Param) (h : s.state = .workerBusy) (hq : s.seq = .idle) :
    exec (.readSram n) s = startOperation (bytePos 0 (byteLength n) .readSramByte .release) { n := n } s := by
  simp only [exec, execReadSram, h, hq, if_true]

theorem exec_readSram_micro {s : State} {cmd : Word} {l : SeqLocals} (n : Param) (h : s.state = .workerBusy)
    (hq : s.seq = .running cmd .readSramByte l) : exec (.readSram n) s = readSramMicroStep cmd l s := by
  simp only [exec, execReadSram, h, hq, if_true]

theorem exec_writeSram_start {s : State} (n : Param) (h : s.state = .workerBusy) (hq : s.seq = .idle) :
    exec (.writeSram n) s = startOperation (bytePos 0 (byteLength n) .writeSramByte .release) { n := n } s := by
  simp only [exec, execWriteSram, h, hq, if_true]

theorem exec_writeSram_micro {s : State} {cmd : Word} {l : SeqLocals} (n : Param) (h : s.state = .workerBusy)
    (hq : s.seq = .running cmd .writeSramByte l) : exec (.writeSram n) s = writeSramMicroStep cmd l s := by
  simp only [exec, execWriteSram, h, hq, if_true]

theorem exec_readFlash_start {s : State} (n : Param) (h : s.state = .workerBusy) (hq : s.seq = .idle) :
    exec (.readFlash n) s = startOperation (.readFlash .transfer) { n := n } s := by
  simp only [exec, execReadFlash, h, hq, if_true]

theorem exec_readFlash_micro {s : State} {cmd : Word} {q : SaveReadPos} {l : SeqLocals} (n : Param) (h : s.state = .workerBusy)
    (hq : s.seq = .running cmd (.readFlash q) l) : exec (.readFlash n) s = readFlashMicroStep q cmd l s := by
  simp only [exec, execReadFlash, h, hq, if_true]

theorem exec_writeFlash_start {s : State} (n : Param) (h : s.state = .workerBusy) (hq : s.seq = .idle) :
    exec (.writeFlash n) s = startOperation (bytePos 0 (byteLength n) (.writeFlash .gather) (.writeFlash .transfer)) { n := n } s := by
  simp only [exec, execWriteFlash, h, hq, if_true]

theorem exec_writeFlash_micro {s : State} {cmd : Word} {q : SaveWritePos} {l : SeqLocals} (n : Param) (h : s.state = .workerBusy)
    (hq : s.seq = .running cmd (.writeFlash q) l) : exec (.writeFlash n) s = writeFlashMicroStep q cmd l s := by
  simp only [exec, execWriteFlash, h, hq, if_true]

theorem exec_readEeprom_start {s : State} (n : Param) (h : s.state = .workerBusy) (hq : s.seq = .idle) :
    exec (.readEeprom n) s = startOperation (.readEeprom .transfer) { n := n } s := by
  simp only [exec, execReadEeprom, h, hq, if_true]

theorem exec_readEeprom_micro {s : State} {cmd : Word} {q : SaveReadPos} {l : SeqLocals} (n : Param) (h : s.state = .workerBusy)
    (hq : s.seq = .running cmd (.readEeprom q) l) : exec (.readEeprom n) s = readEepromMicroStep q cmd l s := by
  simp only [exec, execReadEeprom, h, hq, if_true]

theorem exec_writeEeprom_start {s : State} (n : Param) (h : s.state = .workerBusy) (hq : s.seq = .idle) :
    exec (.writeEeprom n) s = startOperation (bytePos 0 (byteLength n) (.writeEeprom .gather) (.writeEeprom .transfer)) { n := n } s := by
  simp only [exec, execWriteEeprom, h, hq, if_true]

theorem exec_writeEeprom_micro {s : State} {cmd : Word} {q : SaveWritePos} {l : SeqLocals} (n : Param) (h : s.state = .workerBusy)
    (hq : s.seq = .running cmd (.writeEeprom q) l) : exec (.writeEeprom n) s = writeEepromMicroStep q cmd l s := by
  simp only [exec, execWriteEeprom, h, hq, if_true]

theorem exec_dump_start {s : State} (n : Param) (h : s.state = .workerBusy) (hq : s.seq = .idle) :
    exec (.dump n) s = startOperation .dumpHalfword (flashLocals s.cfg n) s := by
  simp only [exec, execDump, h, hq, if_true]

theorem exec_dump_micro {s : State} {cmd : Word} {l : SeqLocals} (n : Param) (h : s.state = .workerBusy)
    (hq : s.seq = .running cmd .dumpHalfword l) : exec (.dump n) s = dumpMicroStep cmd l s := by
  simp only [exec, execDump, h, hq, if_true]

theorem exec_id_start {s : State} (n : Param) (h : s.state = .workerBusy) (hq : s.seq = .idle) :
    exec (.id n) s = startOperation (.id .command) (flashLocals s.cfg n) s := by
  simp only [exec, execId, h, hq, if_true]

theorem exec_id_micro {s : State} {cmd : Word} {q : IdPos} {l : SeqLocals} (n : Param) (h : s.state = .workerBusy)
    (hq : s.seq = .running cmd (.id q) l) : exec (.id n) s = idMicroStep q cmd l s := by
  simp only [exec, execId, h, hq, if_true]

theorem exec_unlock_start {s : State} (n : Param) (h : s.state = .workerBusy) (hq : s.seq = .idle) :
    exec (.unlock n) s = startOperation (.unlock .setup) (flashLocals s.cfg n) s := by
  simp only [exec, execUnlock, h, hq, if_true]

theorem exec_unlock_micro {s : State} {cmd : Word} {q : LockPos} {l : SeqLocals} (n : Param) (h : s.state = .workerBusy)
    (hq : s.seq = .running cmd (.unlock q) l) : exec (.unlock n) s = unlockMicroStep q cmd l s := by
  simp only [exec, execUnlock, h, hq, if_true]

theorem exec_erase_start {s : State} (n : Param) (h : s.state = .workerBusy) (hq : s.seq = .idle) :
    exec (.erase n) s = startOperation (.erase .setup) (flashLocals s.cfg n) s := by
  simp only [exec, execErase, h, hq, if_true]

theorem exec_erase_micro {s : State} {cmd : Word} {q : LockPos} {l : SeqLocals} (n : Param) (h : s.state = .workerBusy)
    (hq : s.seq = .running cmd (.erase q) l) : exec (.erase n) s = eraseMicroStep q cmd l s := by
  simp only [exec, execErase, h, hq, if_true]

theorem exec_program_start {s : State} (n : Param) (h : s.state = .workerBusy) (hq : s.seq = .idle) :
    exec (.program n) s = startOperation (.program .ready) (flashLocals s.cfg n) s := by
  simp only [exec, execProgram, h, hq, if_true]

theorem exec_program_micro {s : State} {cmd : Word} {q : ProgramPos} {l : SeqLocals} (n : Param) (h : s.state = .workerBusy)
    (hq : s.seq = .running cmd (.program q) l) : exec (.program n) s = programMicroStep q cmd l s := by
  simp only [exec, execProgram, h, hq, if_true]

theorem exec_unrecognisedWorker_start {s : State} (t : Byte) (p : Param) (hq : s.seq = .idle) :
    exec (.unrecognisedWorker t p) s = startOperation .logUnrecognised {} s := by
  simp only [exec, execUnrecognisedWorker, hq]

theorem exec_unrecognisedWorker_micro {s : State} {cmd : Word} {l : SeqLocals} (t : Byte) (p : Param)
    (hq : s.seq = .running cmd .logUnrecognised l) :
    exec (.unrecognisedWorker t p) s =
      .next ((s.record (.diag (.unrecognisedWorkerCommand (commandWord t p)))).toPos cmd .release l) := by
  simp only [exec, execUnrecognisedWorker, hq]

end Sys2Proof.Laws
end

