-- ==== Sys2Proof/Laws/PerInstr.lean ====
section
/-! SUPPORT. A law per instruction: the two fields of its word (`spec/30_encoding.md` R80, R84). -/

namespace Sys2Proof.Laws

/-- The tag field that the encoding tables give an instruction. -/
def fieldTag (c : Cfg) : Instr → Byte
  | .nop => wordTag c.nopWord
  | .upload _ => c.tagUpload
  | .download _ => c.tagDownload
  | .read _ => c.tagRead
  | .crc32 _ => c.tagCrc32
  | .readSram _ => c.tagReadSram
  | .writeSram _ => c.tagWriteSram
  | .readFlash _ => c.tagReadFlash
  | .writeFlash _ => c.tagWriteFlash
  | .readEeprom _ => c.tagReadEeprom
  | .writeEeprom _ => c.tagWriteEeprom
  | .dump _ => c.tagDump
  | .id _ => c.tagId
  | .unlock _ => c.tagUnlock
  | .erase _ => c.tagErase
  | .program _ => c.tagProgram
  | .invalid w => wordTag w
  | .uploadingStep w => wordTag w
  | .downloadingStep w => wordTag w
  | .readingStep w => wordTag w
  | .workerBusyStep w => wordTag w
  | .unrecognisedWorker t _ => t

/-- The parameter field: the operand, no bit of it dropped. -/
def fieldParam (c : Cfg) : Instr → Param
  | .nop => wordParam c.nopWord
  | .upload p => p
  | .download p => p
  | .read p => p
  | .crc32 p => p
  | .readSram p => p
  | .writeSram p => p
  | .readFlash p => p
  | .writeFlash p => p
  | .readEeprom p => p
  | .writeEeprom p => p
  | .dump p => p
  | .id p => p
  | .unlock p => p
  | .erase p => p
  | .program p => p
  | .invalid w => wordParam w
  | .uploadingStep w => wordParam w
  | .downloadingStep w => wordParam w
  | .readingStep w => wordParam w
  | .workerBusyStep w => wordParam w
  | .unrecognisedWorker _ p => p

end Sys2Proof.Laws

namespace Sys2Proof.Laws.EncodedFields

/-- The encoded word holds exactly the tag and the parameter of the instruction. -/
def Statement (i : Instr) : Prop :=
  ∀ c : Cfg, wordTag (encode c i) = fieldTag c i ∧ wordParam (encode c i) = fieldParam c i

theorem nop : Statement .nop := fun _ => ⟨rfl, rfl⟩
theorem upload (p : Param) : Statement (.upload p) := fun _ => ⟨wordTag_commandWord _ _, wordParam_commandWord _ _⟩
theorem download (p : Param) : Statement (.download p) := fun _ => ⟨wordTag_commandWord _ _, wordParam_commandWord _ _⟩
theorem read (p : Param) : Statement (.read p) := fun _ => ⟨wordTag_commandWord _ _, wordParam_commandWord _ _⟩
theorem crc32 (p : Param) : Statement (.crc32 p) := fun _ => ⟨wordTag_commandWord _ _, wordParam_commandWord _ _⟩
theorem readSram (p : Param) : Statement (.readSram p) := fun _ => ⟨wordTag_commandWord _ _, wordParam_commandWord _ _⟩
theorem writeSram (p : Param) : Statement (.writeSram p) := fun _ => ⟨wordTag_commandWord _ _, wordParam_commandWord _ _⟩
theorem readFlash (p : Param) : Statement (.readFlash p) := fun _ => ⟨wordTag_commandWord _ _, wordParam_commandWord _ _⟩
theorem writeFlash (p : Param) : Statement (.writeFlash p) := fun _ => ⟨wordTag_commandWord _ _, wordParam_commandWord _ _⟩
theorem readEeprom (p : Param) : Statement (.readEeprom p) := fun _ => ⟨wordTag_commandWord _ _, wordParam_commandWord _ _⟩
theorem writeEeprom (p : Param) : Statement (.writeEeprom p) := fun _ => ⟨wordTag_commandWord _ _, wordParam_commandWord _ _⟩
theorem dump (p : Param) : Statement (.dump p) := fun _ => ⟨wordTag_commandWord _ _, wordParam_commandWord _ _⟩
theorem id (p : Param) : Statement (.id p) := fun _ => ⟨wordTag_commandWord _ _, wordParam_commandWord _ _⟩
theorem unlock (p : Param) : Statement (.unlock p) := fun _ => ⟨wordTag_commandWord _ _, wordParam_commandWord _ _⟩
theorem erase (p : Param) : Statement (.erase p) := fun _ => ⟨wordTag_commandWord _ _, wordParam_commandWord _ _⟩
theorem program (p : Param) : Statement (.program p) := fun _ => ⟨wordTag_commandWord _ _, wordParam_commandWord _ _⟩
theorem invalid (w : Word) : Statement (.invalid w) := fun _ => ⟨rfl, rfl⟩
theorem uploadingStep (w : Word) : Statement (.uploadingStep w) := fun _ => ⟨rfl, rfl⟩
theorem downloadingStep (w : Word) : Statement (.downloadingStep w) := fun _ => ⟨rfl, rfl⟩
theorem readingStep (w : Word) : Statement (.readingStep w) := fun _ => ⟨rfl, rfl⟩
theorem workerBusyStep (w : Word) : Statement (.workerBusyStep w) := fun _ => ⟨rfl, rfl⟩
theorem unrecognisedWorker (t : Byte) (p : Param) : Statement (.unrecognisedWorker t p) :=
  fun _ => ⟨wordTag_commandWord _ _, wordParam_commandWord _ _⟩

end Sys2Proof.Laws.EncodedFields
end

