-- ==== Sys2Proof/Tests/Slice0.lean ====
section
/-! SUPPORT. The model's own tests: expected values from the spec's tables and vectors (`spec/30_encoding.md` R84,
`spec/95_test_vectors.md`), and for every statement with hypotheses a concrete case that meets them. -/

namespace Sys2Proof.Tests

open Sys2Proof.Machine

/-! ### Well-formedness: what each check refuses -/

/-- A word with a tag of the table is no INVALID word (R89). -/
theorem test_invalid_with_tag_refused : (Instr.invalid 0x01000004).wellFormed Cfg.cfg0 = false := by decide
theorem test_invalid_nop_refused : (Instr.invalid 0x004E4F50).wellFormed Cfg.cfg0 = false := by decide
theorem test_invalid_accepted : (Instr.invalid 0x004E4F51).wellFormed Cfg.cfg0 = true := by decide
/-- A worker tag is not an unrecognised one (R187). -/
theorem test_unrecognised_with_tag_refused : (Instr.unrecognisedWorker 0x10 0).wellFormed Cfg.cfg0 = false := by decide
theorem test_unrecognised_accepted : (Instr.unrecognisedWorker 0x7F 0).wellFormed Cfg.cfg0 = true := by decide

/-- The reference configuration meets the constraints of R7; one broken constraint each is refused. -/
theorem test_cfg0_valid : Cfg.cfg0.valid = true := by decide +kernel
theorem test_cfg_equal_tags_refused : ({ Cfg.cfg0 with tagRead := 0x02 } : Cfg).valid = false := by decide +kernel
theorem test_cfg_nop_tag_refused : ({ Cfg.cfg0 with tagRead := 0x00 } : Cfg).valid = false := by decide +kernel
theorem test_cfg_equal_words_refused : ({ Cfg.cfg0 with busyWord := 0x49444C45 } : Cfg).valid = false := by decide +kernel
theorem test_cfg_odd_rom_refused : ({ Cfg.cfg0 with romBase := 0x08000001 } : Cfg).valid = false := by decide +kernel
theorem test_cfg_two_ready_bits_refused : ({ Cfg.cfg0 with srReady := 0x0081 } : Cfg).valid = false := by decide +kernel
theorem test_cfg_ok_without_ready_refused : ({ Cfg.cfg0 with srOk := 0x0001 } : Cfg).valid = false := by decide +kernel
theorem test_cfg_no_chunk_refused : ({ Cfg.cfg0 with wbHalfwords := 0 } : Cfg).valid = false := by decide +kernel
theorem test_cfg_chunk_no_divisor_refused : ({ Cfg.cfg0 with wbHalfwords := 3 } : Cfg).valid = false := by decide +kernel

/-! ### Decoding: words written out bit by bit from R80 and R84 (tag in bits 31 to 24, parameter in bits 23 to 0) -/

theorem test_decode_nop : decodeTableWord 32 0b00000000_01001110_01001111_01010000 = some .nop := by decide
theorem test_decode_upload : decodeTableWord 32 0b00000001_00000000_00000000_00000100 = some (.upload 4) := by decide
theorem test_decode_download : decodeTableWord 32 0b00000010_00000000_00000000_00000010 = some (.download 2) := by decide
theorem test_decode_read :
    decodeTableWord 32 0b00000011_10101011_11001101_11101111 = some (.read 0xABCDEF) := by decide
theorem test_decode_crc32 : decodeTableWord 32 0b00010000_00000000_00000000_00010000 = some (.crc32 16) := by decide
theorem test_decode_readSram :
    decodeTableWord 32 0b00100000_00000000_10000000_00000000 = some (.readSram 32768) := by decide
theorem test_decode_writeSram :
    decodeTableWord 32 0b00100001_00000000_10000000_00000000 = some (.writeSram 32768) := by decide
theorem test_decode_readFlash :
    decodeTableWord 32 0b00100010_00000001_00000000_00000000 = some (.readFlash 65536) := by decide
theorem test_decode_writeFlash :
    decodeTableWord 32 0b00100011_00000001_00000000_00000000 = some (.writeFlash 65536) := by decide
theorem test_decode_readEeprom :
    decodeTableWord 32 0b00100100_00000000_00100000_00000000 = some (.readEeprom 8192) := by decide
theorem test_decode_writeEeprom :
    decodeTableWord 32 0b00100101_00000000_00100000_00000000 = some (.writeEeprom 8192) := by decide
theorem test_decode_dump : decodeTableWord 32 0b00110000_00000000_00000010_00000000 = some (.dump 512) := by decide
theorem test_decode_id : decodeTableWord 32 0b00110001_00000000_00000000_00000000 = some (.id 0) := by decide
theorem test_decode_unlock : decodeTableWord 32 0b00110010_00000000_00000010_00000000 = some (.unlock 512) := by decide
theorem test_decode_erase : decodeTableWord 32 0b00110011_00000000_00000010_00000000 = some (.erase 512) := by decide
theorem test_decode_program : decodeTableWord 32 0b00110100_00000000_00000010_00000000 = some (.program 512) := by decide
theorem test_decode_invalid :
    decodeTableWord 32 0b00000000_01001110_01001111_01010001 = some (.invalid 0x004E4F51) := by decide
/-- In `Uploading` a command word is payload, and so on for the other states (R81; vectors C4, C12, C13). -/
theorem test_decode_uploadingStep :
    decodeAt Cfg.cfg0 (.incoming .uploading) 0x10000010 = .uploadingStep 0x10000010 := by decide
theorem test_decode_downloadingStep :
    decodeAt Cfg.cfg0 (.incoming .downloading) 0x12345678 = .downloadingStep 0x12345678 := by decide
theorem test_decode_readingStep :
    decodeAt Cfg.cfg0 (.incoming .reading) 0x03000000 = .readingStep 0x03000000 := by decide
theorem test_decode_workerBusyStep :
    decodeAt Cfg.cfg0 (.incoming .workerBusy) 0x01000004 = .workerBusyStep 0x01000004 := by decide
/-- The sequencer's default arm (vector W14). -/
theorem test_decode_unrecognisedWorker :
    decodeAt Cfg.cfg0 .sequencer 0x7F000000 = .unrecognisedWorker 0x7F 0 := by decide
theorem test_decode_three_bytes :
    decodeBytes Cfg.cfg0 (.incoming .idle) [0x50, 0x4F, 0x4E] = .error (.notOneWord 3) := by rfl
theorem test_decode_too_long : decodeTableWord 40 0 = none := by decide

/-! ### One step, against the vectors of `spec/95_test_vectors.md` -/

/-- The start state of its section 2.1. -/
def idleF : State :=
  { State.reset with
    len := 7, off := 7, wcr := 0xAAAAAAAA, txd := 0x49444C45, buf := [(0, 0x04), (1, 0x03), (2, 0x02), (3, 0x01)] }

/-- A state of its section 2.2: `STATE`, `LEN`, `OFF`. -/
def inState (st : FsmState) (len off : Word) : State := { idleF with state := st, len := len, off := off }

/-- The sequencer at a position of the operation of `cmd`. -/
def busyAt (cmd : Word) (pos : SeqPos) (l : SeqLocals) : State :=
  { idleF with state := .workerBusy, wcr := cmd, seq := .running cmd pos l }

/-- A command dispatched and not yet started. -/
def started (cmd : Word) : State := { idleF with state := .workerBusy, wcr := cmd }

/-- The registers after an exchange: `STATE`, `LEN`, `OFF`, `TXD`, `WCR`. -/
def exchanged (s : State) (rx : Word) : Option (FsmState × Word × Word × Word × Word) :=
  match step { s with inputs := [.exchange rx] } with
  | .next t => some (t.state, t.len, t.off, t.txd, t.wcr)
  | .fault _ => none
  | .refused _ => none

/-- What a step of the sequencer records and where it goes. -/
def sequenced {α : Type} (s : State) (f : State → α) : Option α :=
  match step s with
  | .next t => some (f t)
  | .fault _ => none
  | .refused _ => none

/-- What a faulting step of the machine raises and leaves. -/
def faulted {α : Type} (s : State) (f : State → α) : Option (Nat × α) :=
  match step s with
  | .next _ => none
  | .fault (.bufferRange i t) => some (i, f t)
  | .refused _ => none

/-- `SEQ` at a position with some locals of interest. -/
def seqOf (t : State) : Option (SeqPos × SeqLocals) :=
  match t.seq with
  | .idle => none
  | .running _ pos l => some (pos, l)

/-- Vector F1. -/
theorem test_nop : exchanged idleF 0x004E4F50 = some (.idle, 7, 7, 0x49444C45, 0xAAAAAAAA) := by decide
/-- Vector F4. -/
theorem test_upload : exchanged idleF 0x01FFFFFF = some (.uploading, 16777215, 0, 0x49444C45, 0xAAAAAAAA) := by decide
/-- Vector F6. -/
theorem test_download : exchanged idleF 0x02000000 = some (.downloading, 0, 1, 0x01020304, 0xAAAAAAAA) := by decide
/-- Vector F8. -/
theorem test_read : exchanged idleF 0x03ABCDEF = some (.reading, 7, 7, 0xAAAAAAAA, 0xAAAAAAAA) := by decide
/-- Vector F23. -/
theorem test_invalid : exchanged idleF 0x004E4F51 = some (.idle, 7, 7, 0x49444C45, 0xAAAAAAAA) := by decide
/-- Vectors F10 to F21: the dispatch of each worker command. -/
theorem test_dispatch_crc32 : exchanged idleF 0x10FFFFFF = some (.workerBusy, 7, 7, 0x42555359, 0x10FFFFFF) := by decide
theorem test_dispatch_readSram : exchanged idleF 0x20008000 = some (.workerBusy, 7, 7, 0x42555359, 0x20008000) := by decide
theorem test_dispatch_writeSram : exchanged idleF 0x21008000 = some (.workerBusy, 7, 7, 0x42555359, 0x21008000) := by decide
theorem test_dispatch_readFlash : exchanged idleF 0x22010000 = some (.workerBusy, 7, 7, 0x42555359, 0x22010000) := by decide
theorem test_dispatch_writeFlash : exchanged idleF 0x23010000 = some (.workerBusy, 7, 7, 0x42555359, 0x23010000) := by decide
theorem test_dispatch_readEeprom : exchanged idleF 0x24002000 = some (.workerBusy, 7, 7, 0x42555359, 0x24002000) := by decide
theorem test_dispatch_writeEeprom : exchanged idleF 0x25002000 = some (.workerBusy, 7, 7, 0x42555359, 0x25002000) := by decide
theorem test_dispatch_dump : exchanged idleF 0x30000200 = some (.workerBusy, 7, 7, 0x42555359, 0x30000200) := by decide
theorem test_dispatch_id : exchanged idleF 0x31000000 = some (.workerBusy, 7, 7, 0x42555359, 0x31000000) := by decide
theorem test_dispatch_unlock : exchanged idleF 0x32000200 = some (.workerBusy, 7, 7, 0x42555359, 0x32000200) := by decide
theorem test_dispatch_erase : exchanged idleF 0x33000200 = some (.workerBusy, 7, 7, 0x42555359, 0x33000200) := by decide
theorem test_dispatch_program : exchanged idleF 0x34000200 = some (.workerBusy, 7, 7, 0x42555359, 0x34000200) := by decide

/-- Vector C6: the last word of the Buffer. -/
theorem test_uploadingStep_last :
    sequenced { inState .uploading 32768 32767 with inputs := [.exchange 0xDEADBEEF], buf := [] }
      (fun t => (t.state, t.off, t.buf)) =
      some (.idle, 32768, [(0x1FFFC, 0xEF), (0x1FFFD, 0xBE), (0x1FFFE, 0xAD), (0x1FFFF, 0xDE)]) := by decide
/-- Vector C7: one word more. U1: `STATE` stays `Uploading`; the FSM has no further step (log 11). -/
theorem test_uploadingStep_fault :
    faulted { inState .uploading 32769 32768 with inputs := [.exchange 1, .exchange 2] }
      (fun t => (t.state, t.history)) = some (32768, .uploading, [.exch 1 0x49444C45, .reset]) := by decide
theorem test_stopped_fsm :
    (runOn 2 { inState .uploading 32769 32768 with inputs := [.exchange 1, .exchange 2] }).map
      (fun t => (t.state, t.history, t.faults)) =
      some (.uploading, [.exch 1 0x49444C45, .reset], [32768]) := by decide
/-- Vector C8, with `Buf32[1] = CAFEBABE`. -/
theorem test_downloadingStep :
    exchanged { inState .downloading 2 1 with buf := [(4, 0xBE), (5, 0xBA), (6, 0xFE), (7, 0xCA)] } 5 =
      some (.downloading, 2, 2, 0xCAFEBABE, 0xAAAAAAAA) := by decide
/-- Vectors C11 and X2: the host receives the old `TXD` in the exchange whose step faults. -/
theorem test_downloadingStep_fault :
    faulted { inState .downloading 32769 32768 with inputs := [.exchange 1], txd := 0xCAFEBABE }
      (fun t => (t.state, t.history)) = some (32768, .downloading, [.exch 1 0xCAFEBABE, .reset]) := by decide
/-- Vector C12. -/
theorem test_readingStep :
    exchanged { inState .reading 7 7 with wcr := 0x76F3B1FB } 0x03000000 =
      some (.idle, 7, 7, 0x49444C45, 0x76F3B1FB) := by decide
/-- Vector C13. -/
theorem test_workerBusyStep :
    exchanged (started 0x10000010) 0x01000004 = some (.workerBusy, 7, 7, 0x42555359, 0x10000010) := by decide

/-- The table entries and the first row of the step trace of `spec/95_test_vectors.md` section 2.3. -/
theorem test_crcTab :
    [0x01, 0x19, 0x80, 0xCE, 0xFF].map crcTab = [0x77073096, 0x646BA8C0, 0xEDB88320, 0x7CDCEFB7, 0x2D02EF8D] := by decide
theorem test_crc32_byte :
    sequenced { busyAt 0x10000009 .crcByte { n := 9 } with crcacc := 0xFFFFFFFF, buf := [(0, 0x31)] }
      (fun t => t.crcacc) = some 0x7C231048 := by decide
/-- U3: after the sequencer's fault the host sees `BUSY_WORD` for ever, until `Reset`. -/
theorem test_crc32_fault :
    (runOn 4 { busyAt 0x10020001 .crcByte { n := 131073, i := 131072 } with
      inputs := [.sequencer, .exchange 1, .sequencer, .exchange 2] }).map
        (fun t => (t.state, t.wcr, t.history, t.faults)) =
      some (.workerBusy, 0x10020001, [.exch 2 0x42555359, .exch 1 0x49444C45, .reset], [131072]) := by decide
theorem test_reset_after_fault :
    (runOn 2 { busyAt 0x10020001 .crcByte { n := 131073, i := 131072 } with inputs := [.sequencer, .reset] }).map
      (fun t => (t.state, t.seqFault, t.faults)) = some (.idle, none, [131072]) := by rfl
/-- Vector W1, its last read: both codes, no diagnostic for the recognised chip. -/
theorem test_id_device :
    sequenced { busyAt 0x31000000 (.id .device) { a := 0x08000000, code := 0x0089 } with
        cart16 := [0x0018], cfg := { Cfg.cfg0 with idExpected := some 0x00890018 } }
      (fun t => (t.history, (seqOf t).map fun p => p.2.result)) =
      some ([.r16 0x08000002 0x0018, .reset], some 0x00890018) := by decide
/-- Vector W4, its first write. -/
theorem test_unlock_setup :
    sequenced (busyAt 0x32000200 (.unlock .setup) { a := 0x08020000 }) (fun t => t.history) =
      some [.w16 0x08020000 0x0060, .reset] := by decide
/-- Vector W12: bits 15 to 8 are kept; vector W11: other bits do not end the poll. -/
theorem test_erase_poll :
    sequenced { busyAt 0x33000000 (.erase .poll) { a := 0x08000000 } with cart16 := [0xFF80] }
      (fun t => (seqOf t).map fun p => (p.1, p.2.result)) = some (some (.writeResult, 0x0000FF80)) := by decide
theorem test_erase_poll_unready :
    sequenced { busyAt 0x33000000 (.erase .poll) { a := 0x08000000 } with cart16 := [0xFF7F] }
      (fun t => (seqOf t).map fun p => p.1) = some (some (.erase .poll)) := by decide
/-- The first data word of chunk 1 of vector W8. -/
theorem test_program_data :
    sequenced { busyAt 0x34000200 (.program .data) { a := 0x08020000, k := 1 } with buf := [(0x21, 0x01)] }
      (fun t => t.history) = some [.w16 0x08020020 0x0100, .reset] := by decide
/-- The closing status of vector W9. -/
theorem test_program_failed_chunk :
    sequenced { busyAt 0x34000200 (.program .verdict) { a := 0x08020000, k := 1 } with cart16 := [0x0090] }
      (fun t => (seqOf t).map fun p => (p.1, p.2.result)) = some (some (.writeResult, 0x00000090)) := by decide
/-- The second halfword of vector W13. -/
theorem test_dump_halfword :
    sequenced { busyAt 0x30000000 .dumpHalfword { a := 0x08000000, j := 1 } with buf := [(1, 0x2E)], cart16 := [0xEA00] }
      (fun t => (t.history, t.buf)) = some ([.r16 0x08000002 0xEA00, .reset], [(1, 0x2E), (3, 0xEA)]) := by decide
/-- The second byte of vector V1; vector V5. -/
theorem test_readSram_byte :
    sequenced { busyAt 0x20000002 .readSramByte { n := 2, i := 1 } with buf := [(0, 0xAA)], cart8 := [0x55] }
      (fun t => (t.history, t.buf, (seqOf t).map fun p => p.1)) =
      some ([.r8 0x0E000001 0x55, .reset], [(0, 0xAA), (1, 0x55)], some .release) := by decide
/-- Vector V5: the read of `0E020000` has been issued when the write faults, and `STATE` stays `WorkerBusy`. -/
theorem test_readSram_fault :
    faulted { busyAt 0x20020001 .readSramByte { n := 131073, i := 131072 } with cart8 := [0x55] }
      (fun t => (t.state, t.wcr, t.history)) =
      some (131072, .workerBusy, 0x20020001, [.r8 0x0E020000 0x55, .reset]) := by decide
/-- The second byte of vector V4. -/
theorem test_writeSram_byte :
    sequenced { busyAt 0x21000003 .writeSramByte { n := 3, i := 1 } with buf := [(0, 0x78), (1, 0x56), (2, 0x34)] }
      (fun t => t.history) = some [.w8 0x0E000001 0x56, .reset] := by decide
/-- Vector V6, with two bytes. -/
theorem test_readFlash_transfer :
    sequenced { busyAt 0x22000002 (.readFlash .transfer) { n := 2 } with saveReads := [some ⟨[0x11, 0x22], .ok⟩] }
      (fun t => (t.history, (seqOf t).map fun p => (p.1, p.2.bytes))) =
      some ([.saveRd .flash 2 [0x11, 0x22] .ok, .reset], some (.readFlash .copy, [0x11, 0x22])) := by decide
/-- Vector V10: no transaction before the fault. -/
theorem test_writeFlash_fault :
    faulted (busyAt 0x23020001 (.writeFlash .gather) { n := 131073, i := 131072 }) State.history =
      some (131072, [.reset]) := by decide
/-- Vector V8, its last byte, with two bytes. -/
theorem test_readEeprom_copy :
    sequenced { busyAt 0x24000002 (.readEeprom .copy) { n := 2, i := 1, bytes := [0x22] } with buf := [(0, 0x11)] }
      (fun t => (t.buf, (seqOf t).map fun p => p.1)) = some ([(0, 0x11), (1, 0x22)], some .release) := by decide
/-- Vector V9, with two bytes: the error is the result. -/
theorem test_writeEeprom_transfer :
    sequenced { busyAt 0x25000002 (.writeEeprom .transfer) { n := 2, i := 2, bytes := [0x11, 0x22] } with
        saveWrites := [some (.error 1)] }
      (fun t => (t.history, (seqOf t).map fun p => (p.1, p.2.result))) =
      some ([.saveWr .eeprom 2 [0x11, 0x22] (.error 1), .reset], some (.writeResult, 1)) := by decide
/-- Vector W14. -/
theorem test_unrecognisedWorker :
    sequenced (busyAt 0x7F000000 .logUnrecognised {}) (fun t => (t.history, t.wcr)) =
      some ([.diag (.unrecognisedWorkerCommand 0x7F000000), .reset], 0x7F000000) := by decide
/-- `withFetchWord`: the next step after reset runs the word (vector F2's). -/
theorem test_fetch_word :
    sequenced (State.reset.withFetchWord 32 0x01000004) (fun t => (t.state, t.len)) = some (.uploading, 4) := by decide

/-! ### Witnesses: for every statement with hypotheses, concrete values that meet them, clause by clause -/

/-- A dispatched command with a transfer of answers in store, for the statements about whole operations. -/
def dispatched (tag : Byte) (p : Param) : State := { started (commandWord tag p) with inputs := [] }

/-- The states of the tests meet the invariant: a transfer that has not stopped, -/
theorem inv_inState (st : FsmState) (len off : Word) (hl : len.toNat < 2 ^ 24) (ho : off.toNat ≤ max len.toNat 1)
    (hb : off.toNat ≤ bufWords) (hu : st = .uploading → off < len ∨ (off = 0 ∧ len = 0))
    (hd : st = .downloading → 1 ≤ off.toNat) (hw : st ≠ .workerBusy) : Inv (inState st len off) :=
  ⟨test_cfg0_valid, (by decide : Memory.wf idleF.buf = true), hl, ho, hb, hu, hd, trivial, fun h => absurd h hw,
    fun _ h => (nomatch h), fun _ h => nomatch h⟩

/-- the sequencer at a position of the operation of its command, -/
theorem inv_busyAt (cmd : Word) (pos : SeqPos) (l : SeqLocals)
    (hp : operationAt Cfg.cfg0 (decodeWorker Cfg.cfg0 cmd) pos l = true)
    (hw : isWorkerCommand (decodeWorker Cfg.cfg0 cmd) = true) : Inv (busyAt cmd pos l) :=
  ⟨test_cfg0_valid, (by decide : Memory.wf idleF.buf = true), (by decide : idleF.len.toNat < 2 ^ 24),
    (by decide : idleF.off.toNat ≤ max idleF.len.toNat 1), (by decide : idleF.off.toNat ≤ bufWords), fun h => (nomatch h),
    fun h => (nomatch h), (show _ ∧ _ ∧ _ from ⟨rfl, hp, fun _ => rfl⟩), fun _ => hw, fun _ h => (nomatch h),
    fun _ h => nomatch h⟩

/-- a command not yet started, -/
theorem inv_started (cmd : Word) (hw : isWorkerCommand (decodeWorker Cfg.cfg0 cmd) = true) : Inv (started cmd) :=
  ⟨test_cfg0_valid, (by decide : Memory.wf idleF.buf = true), (by decide : idleF.len.toNat < 2 ^ 24),
    (by decide : idleF.off.toNat ≤ max idleF.len.toNat 1), (by decide : idleF.off.toNat ≤ bufWords), fun h => (nomatch h),
    fun h => (nomatch h), trivial, fun _ => hw, fun _ h => (nomatch h), fun _ h => nomatch h⟩

/-- and the same whatever the host sends and the cartridge answers. -/
theorem inv_environment {s : State} (h : Inv s) (is : List Input) (c8 : List Byte) (tx : Word) :
    Inv { s with inputs := is, cart8 := c8, txd := tx } :=
  ⟨h.cfgValid, h.bufWf, h.lenBound, h.offBound, h.offInBuffer, h.uploading, h.downloading, h.seqInv, h.workerKnown,
    h.fsmStopped, h.seqStopped⟩

/-- An FSM that has stopped in an upload. -/
def stoppedFsm : State := { inState .uploading 32769 32768 with fsmFault := some 32768, faults := [32768] }

theorem inv_stoppedFsm : Inv stoppedFsm :=
  have h := inv_inState .uploading 32769 32768 (by decide) (by decide) (by decide) (by decide) (by decide) (by decide)
  ⟨h.cfgValid, h.bufWf, h.lenBound, h.offBound, h.offInBuffer, h.uploading, h.downloading, h.seqInv, h.workerKnown,
    fun i hi => by cases hi; decide, fun _ hi => (nomatch hi)⟩

/-- The sequencer at the first byte past the Buffer. -/
def atEnd : State := busyAt 0x10020001 .crcByte { n := 131073, i := 131072 }

theorem inv_atEnd : Inv atEnd := inv_busyAt _ _ _ (by decide) (by decide)

theorem witness_DecodeOfEncode :
    Cfg.cfg0.valid = true ∧ Instr.wellFormed Cfg.cfg0 (.program 0xFFFFFF) = true ∧
    Instr.wellFormed Cfg.cfg0 (.invalid 0xFF000000) = true ∧
    Instr.wellFormed Cfg.cfg0 (.unrecognisedWorker 0x7F 0xFFFFFF) = true := by decide +kernel

theorem witness_SequencerReadsTheDispatchedCommand :
    Cfg.cfg0.valid = true ∧ Cfg.cfg0.workerTags.contains (wordTag 0x34FFFFFF) = true := by decide +kernel

theorem witness_TopByteDecidesNextState :
    idleF.state = .idle ∧ wordTag 0x01000000 = wordTag 0x01FFFFFF ∧ wordTag 0x004E4F50 = wordTag 0x004E4F51 := by decide

theorem witness_NopEmitsIdle :
    (idleF.cfg.valid = true ∧ idleF.state = .idle) ∧ (started 0x10000010).state = .workerBusy ∧
    (inState .uploading 1 0).state = .uploading ∧ (inState .downloading 2 1).state = .downloading ∧
    (inState .reading 7 7).state = .reading ∧ (inState .reading 7 7).state ≠ .idle := by decide +kernel

/-- The word next to NOP, and a word with a tag that the table does not have. -/
theorem witness_InvalidWordIsLoggedAndIgnored :
    idleF.state = .idle ∧ (wordTag 0x004E4F51 ∉ idleF.cfg.tags ∧ (0x004E4F51 : Word) ≠ idleF.cfg.nopWord) ∧
    (wordTag 0xFF000000 ∉ idleF.cfg.tags ∧ (0xFF000000 : Word) ≠ idleF.cfg.nopWord) := by decide

theorem witness_UploadOpensTransfer : idleF.state = .idle ∧ wordTag 0x01FFFFFF = idleF.cfg.tagUpload := by decide

theorem witness_DownloadPrefetchesFirstWord :
    idleF.cfg.valid = true ∧ idleF.state = .idle ∧ wordTag 0x02000000 = idleF.cfg.tagDownload := by decide +kernel

theorem witness_ReadEmitsWcr :
    idleF.cfg.valid = true ∧ idleF.state = .idle ∧ wordTag 0x03ABCDEF = idleF.cfg.tagRead := by decide +kernel

theorem witness_WorkerCommandIsDispatched :
    idleF.cfg.valid = true ∧ idleF.state = .idle ∧ idleF.cfg.workerTags.contains (wordTag 0x34FFFFFF) = true ∧
    idleF.seqFault = none ∧
    [.crc32 0, .readSram 0, .writeSram 0, .readFlash 0, .writeFlash 0, .readEeprom 0, .writeEeprom 0, .dump 0, .id 0,
      .unlock 0, .erase 0, .program 0xFFFFFF].all isWorkerCommand = true := by decide +kernel

/-- The last word of the Buffer, the first past it, and a count of 0. -/
theorem witness_UploadingStepResult :
    (∀ len off, (inState .uploading len off).state = .uploading) ∧
    ((inState .uploading 32768 32767).off < (inState .uploading 32768 32767).len ∧
      (inState .uploading 32768 32767).off.toNat < 32768) ∧
    ((inState .uploading 32769 32768).off < (inState .uploading 32769 32768).len ∧
      32768 ≤ (inState .uploading 32769 32768).off.toNat) ∧
    ¬ (inState .uploading 0 0).off < (inState .uploading 0 0).len :=
  ⟨fun _ _ => rfl, by decide, by decide, by decide⟩

theorem witness_UploadingStepStoresFourBytes :
    Memory.wf (inState .uploading 32768 32767).buf = true ∧
    (inState .uploading 32768 32767).off < (inState .uploading 32768 32767).len ∧
    (inState .uploading 32768 32767).off.toNat < 32768 := by decide

theorem witness_DownloadingStepResult :
    (inState .downloading 2 1).state = .downloading ∧
    ((inState .downloading 32768 32767).off < (inState .downloading 32768 32767).len ∧
      (inState .downloading 32768 32767).off.toNat < 32768) ∧
    ((inState .downloading 32769 32768).off < (inState .downloading 32769 32768).len ∧
      32768 ≤ (inState .downloading 32769 32768).off.toNat) ∧
    ¬ (inState .downloading 0 1).off < (inState .downloading 0 1).len := by decide

theorem witness_ReadingStepReturnsToIdle : (inState .reading 7 7).state = .reading := by decide

theorem witness_WorkerBusyStepAnswersBusy : (started 0x10000010).state = .workerBusy := by decide

theorem witness_OperationStart : (started 0x10000010).state = .workerBusy ∧ (started 0x10000010).seq = .idle := by decide

/-- Each write of completion; a reset; the end of READ_SRAM, which has no result, and of CRC32, which has one. -/
theorem witness_CompletionWritesResultThenState :
    (isSequencerInstr (.crc32 9) = true ∧ isSequencerInstr (.unrecognisedWorker 0x7F 0) = true) ∧
    (∃ t, Inv (busyAt 0x10000009 .release {}) ∧ stateAfter (busyAt 0x10000009 .release {}) = some t ∧
      (busyAt 0x10000009 .release {}).state = .workerBusy ∧ t.state = .idle) ∧
    (∃ t, Inv { atEnd with inputs := [.reset] } ∧ stateAfter { atEnd with inputs := [.reset] } = some t ∧
      t.state = .idle) ∧
    (∃ t, Inv (busyAt 0x10000009 .writeResult { result := 5 }) ∧
      stateAfter (busyAt 0x10000009 .writeResult { result := 5 }) = some t ∧
      t.seq = .running 0x10000009 .release { result := 5 }) ∧
    (∃ t, Inv (busyAt 0x20000001 .readSramByte { n := 1 }) ∧
      stateAfter (busyAt 0x20000001 .readSramByte { n := 1 }) = some t ∧
      t.seq = .running 0x20000001 .release { n := 1, i := 1 }) :=
  ⟨by decide, ⟨_, inv_busyAt _ _ _ (by decide) (by decide), rfl, rfl, rfl⟩,
    ⟨_, inv_environment inv_atEnd [.reset] [] _, rfl, rfl⟩,
    ⟨_, inv_busyAt _ _ _ (by decide) (by decide), rfl, rfl⟩, ⟨_, inv_busyAt _ _ _ (by decide) (by decide), rfl, rfl⟩⟩

/-- For every position and every locals there is a state of the sequencer at that position. -/
theorem witness_position (cmd : Word) (pos : SeqPos) (l : SeqLocals) :
    (busyAt cmd pos l).state = .workerBusy ∧ (busyAt cmd pos l).seq = .running cmd pos l := ⟨rfl, rfl⟩

/-- A byte that is not the last, the last byte of the Buffer, and the first past it. -/
theorem witness_Crc32FoldsOneByte :
    (busyAt 0x10020001 .crcByte { n := 131073, i := 131071 }).state = .workerBusy ∧
    (busyAt 0x10020001 .crcByte { n := 131073, i := 131071 }).seq =
      .running 0x10020001 .crcByte { n := 131073, i := 131071 } ∧
    (131071 < 131072 ∧ 131071 + 1 < (131073 : Param).toNat) ∧ (131071 < 131072 ∧ (131072 : Param).toNat ≤ 131071 + 1) ∧
    131072 ≤ 131072 := by decide

theorem witness_IdMicroSteps :
    (busyAt 0x31000000 (.id .command) {}).state = .workerBusy ∧
    (busyAt 0x31000000 (.id .command) {}).seq = .running 0x31000000 (.id .command) {} ∧
    (busyAt 0x31000000 (.id .manufacturer) {}).seq = .running 0x31000000 (.id .manufacturer) {} ∧
    (busyAt 0x31000000 (.id .device) { code := 0x0089 }).seq = .running 0x31000000 (.id .device) { code := 0x0089 } := by
  decide

/-- A status with the ready bit and one without. -/
theorem witness_UnlockAndEraseMicroSteps :
    (busyAt 0x32000000 (.unlock .setup) {}).seq = .running 0x32000000 (.unlock .setup) {} ∧
    (busyAt 0x32000000 (.unlock .confirm) {}).seq = .running 0x32000000 (.unlock .confirm) {} ∧
    (busyAt 0x33000000 (.erase .setup) {}).seq = .running 0x33000000 (.erase .setup) {} ∧
    (busyAt 0x33000000 (.erase .confirm) {}).seq = .running 0x33000000 (.erase .confirm) {} ∧
    (busyAt 0x32000000 (.unlock .poll) {}).seq = .running 0x32000000 (.unlock .poll) {} ∧
    (busyAt 0x33000000 (.erase .poll) {}).seq = .running 0x33000000 (.erase .poll) {} ∧
    (0x0080 : Halfword) = cartValue16 0 { busyAt 0x33000000 (.erase .poll) {} with cart16 := [0x0080] } ∧
    (0x0080 &&& Cfg.cfg0.srReady) ≠ 0 ∧
    (0xFF7F : Halfword) = cartValue16 0 { busyAt 0x33000000 (.erase .poll) {} with cart16 := [0xFF7F] } ∧
    (0xFF7F &&& Cfg.cfg0.srReady) = 0 := by decide

/-- The last word of the last chunk. -/
theorem witness_ProgramWritesOneChunk :
    (busyAt 0x34000000 (.program .command) { k := 4095 }).state = .workerBusy ∧
    (0x0001FFE0 : Word) = (0 : Word) + BitVec.ofNat 32 (4095 * Cfg.cfg0.wbHalfwords * 2) ∧
    (busyAt 0x34000000 (.program .command) { k := 4095 }).seq = .running 0x34000000 (.program .command) { k := 4095 } ∧
    (busyAt 0x34000000 (.program .count) { k := 4095 }).seq = .running 0x34000000 (.program .count) { k := 4095 } ∧
    (busyAt 0x34000000 (.program .data) { k := 4095, j := 15 }).seq =
      .running 0x34000000 (.program .data) { k := 4095, j := 15 } ∧
    4095 * Cfg.cfg0.wbHalfwords + 15 < 65536 ∧
    (busyAt 0x34000000 (.program .confirm) { k := 4095 }).seq = .running 0x34000000 (.program .confirm) { k := 4095 } := by
  decide

/-- At the last chunk, and at the one before it: not ready, failed, passed and last, passed and not last. -/
theorem witness_ProgramPollsAndAborts :
    (busyAt 0x34000000 (.program .verdict) { k := 4095 }).state = .workerBusy ∧
    (busyAt 0x34000000 (.program .ready) {}).seq = .running 0x34000000 (.program .ready) {} ∧
    (busyAt 0x34000000 (.program .verdict) { k := 4095 }).seq = .running 0x34000000 (.program .verdict) { k := 4095 } ∧
    (0x0090 : Halfword) = cartValue16 0 { busyAt 0x34000000 (.program .verdict) {} with cart16 := [0x0090] } ∧
    ((0x0010 : Halfword) &&& Cfg.cfg0.srReady) = 0 ∧
    (((0x0090 : Halfword) &&& Cfg.cfg0.srReady) ≠ 0 ∧ (0x0090 : Halfword) ≠ Cfg.cfg0.srOk) ∧
    (((0x0080 : Halfword) &&& Cfg.cfg0.srReady) ≠ 0 ∧ 65536 / Cfg.cfg0.wbHalfwords ≤ 4095 + 1) ∧
    ((0x0080 : Halfword) = Cfg.cfg0.srOk ∧ 4094 + 1 < 65536 / Cfg.cfg0.wbHalfwords) := by decide

theorem witness_DumpCopiesOneHalfword :
    (busyAt 0x30000000 .dumpHalfword { j := 65535 }).state = .workerBusy ∧
    (busyAt 0x30000000 .dumpHalfword { j := 65535 }).seq = .running 0x30000000 .dumpHalfword { j := 65535 } ∧
    65535 < 65536 ∧ Memory.wf (busyAt 0x30000000 .dumpHalfword { j := 65535 }).buf = true ∧
    (0x0001FFFE : Word) = (0 : Word) + BitVec.ofNat 32 (2 * 65535) ∧
    (0x002E : Halfword) = cartValue16 0x0001FFFE { busyAt 0x30000000 .dumpHalfword {} with cart16 := [0x002E] } := by decide

/-- The last byte of the Buffer and the first past it. -/
theorem witness_ReadSramCopiesOneByte :
    (busyAt 0x20020001 .readSramByte { n := 131073, i := 131071 }).state = .workerBusy ∧
    (busyAt 0x20020001 .readSramByte { n := 131073, i := 131071 }).seq =
      .running 0x20020001 .readSramByte { n := 131073, i := 131071 } ∧
    (busyAt 0x20020001 .readSramByte { n := 131073, i := 131072 }).seq =
      .running 0x20020001 .readSramByte { n := 131073, i := 131072 } ∧
    Memory.wf (busyAt 0x20020001 .readSramByte {}).buf = true ∧
    (0x0E01FFFF : Word) = Cfg.cfg0.sramBase + BitVec.ofNat 32 131071 ∧
    (0x55 : Byte) = cartValue8 0x0E01FFFF { busyAt 0x20020001 .readSramByte {} with cart8 := [0x55] } ∧
    131071 < 131072 ∧ 131072 ≤ 131072 := by decide

theorem witness_WriteSramWritesOneByte :
    (busyAt 0x21020001 .writeSramByte { n := 131073, i := 131071 }).state = .workerBusy ∧
    (busyAt 0x21020001 .writeSramByte { n := 131073, i := 131071 }).seq =
      .running 0x21020001 .writeSramByte { n := 131073, i := 131071 } ∧
    (busyAt 0x21020001 .writeSramByte { n := 131073, i := 131072 }).seq =
      .running 0x21020001 .writeSramByte { n := 131073, i := 131072 } ∧
    131071 < 131072 ∧ 131072 ≤ 131072 := by decide

/-- A transaction that has not ended; one that has, with bytes to copy; one of length 0, with each outcome. -/
theorem witness_SaveReadTransaction :
    (busyAt 0x22000002 (.readFlash .transfer) { n := 2 }).state = .workerBusy ∧
    (busyAt 0x22000002 (.readFlash .transfer) { n := 2 }).seq = .running 0x22000002 (.readFlash .transfer) { n := 2 } ∧
    (busyAt 0x24000002 (.readEeprom .transfer) { n := 2 }).seq = .running 0x24000002 (.readEeprom .transfer) { n := 2 } ∧
    saveReadAnswer { busyAt 0x22000002 (.readFlash .transfer) { n := 2 } with saveReads := [none] } = none ∧
    saveReadAnswer { busyAt 0x22000002 (.readFlash .transfer) { n := 2 } with saveReads := [some ⟨[1, 2], .ok⟩] } =
      some ⟨[1, 2], .ok⟩ ∧
    saveReadAnswer { busyAt 0x22000000 (.readFlash .transfer) { n := 0 } with saveReads := [some ⟨[], .error 1⟩] } =
      some ⟨[], .error 1⟩ ∧
    (2 : Param) ≠ 0 := by decide

/-- Not the last byte; the last byte of the Buffer with each outcome; the first past it. -/
theorem witness_SaveReadCopiesOneByte :
    (busyAt 0x22020001 (.readFlash .copy) { n := 131073, i := 131071, bytes := [1, 2] }).state = .workerBusy ∧
    (busyAt 0x22020001 (.readFlash .copy) { n := 131073, i := 131071, bytes := [1, 2] }).seq =
      .running 0x22020001 (.readFlash .copy) { n := 131073, i := 131071, bytes := [1, 2] } ∧
    (busyAt 0x22020000 (.readFlash .copy) { n := 131072, i := 131071, bytes := [1] }).seq =
      .running 0x22020000 (.readFlash .copy) { n := 131072, i := 131071, bytes := [1] } ∧
    (busyAt 0x24020000 (.readEeprom .copy) { n := 131072, i := 131071, bytes := [1], outcome := .error 1 }).seq =
      .running 0x24020000 (.readEeprom .copy) { n := 131072, i := 131071, bytes := [1], outcome := .error 1 } ∧
    (busyAt 0x24020001 (.readEeprom .copy) { n := 131073, i := 131072, bytes := [1] }).seq =
      .running 0x24020001 (.readEeprom .copy) { n := 131073, i := 131072, bytes := [1] } ∧
    Memory.wf (busyAt 0x22020001 (.readFlash .copy) {}).buf = true := by decide

theorem witness_SaveWriteMicroSteps :
    (busyAt 0x23020001 (.writeFlash .gather) { n := 131073, i := 131071 }).state = .workerBusy ∧
    (busyAt 0x23020001 (.writeFlash .gather) { n := 131073, i := 131071 }).seq =
      .running 0x23020001 (.writeFlash .gather) { n := 131073, i := 131071 } ∧
    (busyAt 0x25020001 (.writeEeprom .gather) { n := 131073, i := 131072 }).seq =
      .running 0x25020001 (.writeEeprom .gather) { n := 131073, i := 131072 } ∧
    (busyAt 0x23000000 (.writeFlash .transfer) {}).seq = .running 0x23000000 (.writeFlash .transfer) {} ∧
    saveWriteAnswer { busyAt 0x23000000 (.writeFlash .transfer) {} with saveWrites := [none] } = none ∧
    saveWriteAnswer { busyAt 0x23000000 (.writeFlash .transfer) {} with saveWrites := [some .ok] } = some .ok ∧
    saveWriteAnswer { busyAt 0x25000000 (.writeEeprom .transfer) {} with saveWrites := [some (.error 1)] } =
      some (.error 1) := by decide

theorem witness_UnrecognisedCommandIsLoggedAndReleased :
    Cfg.cfg0.workerTags.contains 0x7F = false ∧ (started 0x7F000000).seq = .idle ∧
    (busyAt 0x7F000000 .logUnrecognised {}).seq = .running 0x7F000000 .logUnrecognised {} ∧
    (busyAt 0x7F000000 .release {}).seq = .running 0x7F000000 .release {} := by decide

/-- What the statements about whole operations ask of a dispatched command. -/
theorem witness_dispatched (tag : Byte) (p : Param) :
    (dispatched tag p).cfg.valid = true ∧ (dispatched tag p).state = .workerBusy ∧ (dispatched tag p).seq = .idle ∧
    (dispatched tag p).seqFault = none ∧ (dispatched tag p).inputs = [] ∧
    (dispatched tag p).wcr = commandWord tag p :=
  ⟨test_cfg0_valid, rfl, rfl, rfl, rfl, rfl⟩

/-- The lengths 0 and 131072, and the first past the Buffer. -/
theorem witness_Crc32RunGivesCrc :
    (dispatched 0x10 131072).cfg.valid = true ∧ (dispatched 0x10 131072).state = .workerBusy ∧
    (dispatched 0x10 131072).seq = .idle ∧ (dispatched 0x10 131072).inputs = [] ∧
    (dispatched 0x10 131072).seqFault = none ∧
    (dispatched 0x10 131072).wcr = commandWord (dispatched 0x10 131072).cfg.tagCrc32 131072 ∧
    (131072 : Param).toNat ≤ 131072 ∧ (0 : Param).toNat ≤ 131072 ∧ 131072 < (131073 : Param).toNat := by decide +kernel

theorem witness_IdRunGivesBothCodes :
    (dispatched 0x31 0xFFFFFF).cfg.valid = true ∧ (dispatched 0x31 0xFFFFFF).state = .workerBusy ∧
    (dispatched 0x31 0xFFFFFF).seq = .idle ∧ (dispatched 0x31 0xFFFFFF).inputs = [] ∧
    (dispatched 0x31 0xFFFFFF).seqFault = none ∧
    (dispatched 0x31 0xFFFFFF).wcr = commandWord (dispatched 0x31 0xFFFFFF).cfg.tagId 0xFFFFFF ∧
    ({ dispatched 0x31 0xFFFFFF with cart16 := [0x0001, 0x227E] } : State).cart16 = 0x0001 :: 0x227E :: [] ∧
    (0x07FFFF00 : Word) = Cfg.cfg0.romBase + (0xFFFFFF : Param).setWidth 32 * 256 := by decide +kernel

theorem witness_UnlockAndEraseRunGiveStatus :
    (dispatched 0x33 512).cfg.valid = true ∧ (dispatched 0x33 512).state = .workerBusy ∧
    (dispatched 0x33 512).seq = .idle ∧ (dispatched 0x33 512).inputs = [] ∧
    (0x32 = Cfg.cfg0.tagUnlock ∧ 0x0060 = Cfg.cfg0.fcClearLock) ∧ (0x33 = Cfg.cfg0.tagErase ∧ 0x0020 = Cfg.cfg0.fcErase) ∧
    (dispatched 0x33 512).seqFault = none ∧ (dispatched 0x33 512).wcr = commandWord 0x33 512 ∧
    (0x08020000 : Word) = Cfg.cfg0.romBase + (512 : Param).setWidth 32 * 256 ∧
    ({ dispatched 0x33 512 with cart16 := [0x0000, 0x0000, 0x0080] } : State).cart16 = [0x0000, 0x0000] ++ 0x0080 :: [] ∧
    (∀ b ∈ [(0x0000 : Halfword), 0x0000], (b &&& Cfg.cfg0.srReady) = 0) ∧ (0x0080 &&& Cfg.cfg0.srReady) ≠ 0 :=
  ⟨test_cfg0_valid, rfl, rfl, rfl, by decide, by decide, rfl, rfl, by decide, rfl, by simp, by decide⟩

/-- Each poll, and each transaction of the save device, with two answers that do not end it. -/
theorem witness_UnreadyPollNeverCompletes :
    (∀ cmd pos l, (busyAt cmd pos l).cfg.valid = true ∧ (busyAt cmd pos l).state = .workerBusy ∧
      (busyAt cmd pos l).seqFault = none ∧ (busyAt cmd pos l).inputs = [] ∧
      (busyAt cmd pos l).seq = .running cmd pos l) ∧
    ((0x32000000 : Word) = commandWord Cfg.cfg0.tagUnlock 0 ∧ (0x33000000 : Word) = commandWord Cfg.cfg0.tagErase 0 ∧
      (0x34000000 : Word) = commandWord Cfg.cfg0.tagProgram 0) ∧
    ({ busyAt 0x34000000 (.program .verdict) {} with cart16 := [0xFF7F, 0] } : State).cart16 = [0xFF7F, 0] ++ [] ∧
    (∀ b ∈ [(0xFF7F : Halfword), 0], (b &&& Cfg.cfg0.srReady) = 0) ∧
    ((0x22000001 : Word) = commandWord Cfg.cfg0.tagReadFlash 1 ∧ (0x24000001 : Word) = commandWord Cfg.cfg0.tagReadEeprom 1) ∧
    ({ busyAt 0x22000001 (.readFlash .transfer) {} with saveReads := [none, none] } : State).saveReads =
      List.replicate 2 none ++ [] ∧
    ((0x23000001 : Word) = commandWord Cfg.cfg0.tagWriteFlash 1 ∧
      (0x25000001 : Word) = commandWord Cfg.cfg0.tagWriteEeprom 1) ∧
    ({ busyAt 0x25000001 (.writeEeprom .transfer) {} with saveWrites := [none, none] } : State).saveWrites =
      List.replicate 2 none ++ [] :=
  ⟨fun _ _ _ => ⟨test_cfg0_valid, rfl, rfl, rfl, rfl⟩, by decide, rfl, by simp [Cfg.cfg0], by decide, rfl, by decide, rfl⟩

theorem witness_DumpRunFillsBuffer :
    (dispatched 0x30 0).cfg.valid = true ∧ (dispatched 0x30 0).state = .workerBusy ∧ (dispatched 0x30 0).seq = .idle ∧
    (dispatched 0x30 0).inputs = [] ∧ (dispatched 0x30 0).seqFault = none ∧ (dispatched 0x30 0).wcr = commandWord Cfg.cfg0.tagDump 0 ∧
    (0x08000000 : Word) = Cfg.cfg0.romBase + (0 : Param).setWidth 32 * 256 ∧
    ({ dispatched 0x30 0 with cart16 := List.replicate 65536 0x2E00 } : State).cart16 = List.replicate 65536 0x2E00 ++ [] ∧
    (List.replicate 65536 (0x2E00 : Halfword)).length = 65536 :=
  ⟨test_cfg0_valid, rfl, rfl, rfl, rfl, by decide, by decide, (List.append_nil _).symm, List.length_replicate⟩

/-- A length of the whole Buffer, and one byte more. -/
theorem witness_ReadSramRunFillsBuffer :
    (dispatched 0x20 131072).cfg.valid = true ∧ (dispatched 0x20 131072).state = .workerBusy ∧
    (dispatched 0x20 131072).seq = .idle ∧ (dispatched 0x20 131072).inputs = [] ∧
    (dispatched 0x20 131072).wcr = commandWord Cfg.cfg0.tagReadSram 131072 ∧ (131072 : Param).toNat ≤ 131072 ∧
    ({ dispatched 0x20 131072 with cart8 := List.replicate 131072 0xAA } : State).cart8 = List.replicate 131072 0xAA ++ [] ∧
    (List.replicate 131072 (0xAA : Byte)).length = (131072 : Param).toNat ∧ (dispatched 0x20 131072).seqFault = none ∧
    (dispatched 0x20 131073).wcr = commandWord Cfg.cfg0.tagReadSram 131073 ∧ 131072 < (131073 : Param).toNat ∧
    ({ dispatched 0x20 131073 with cart8 := List.replicate 131073 0xAA } : State).cart8 = List.replicate 131073 0xAA ++ [] ∧
    (List.replicate 131073 (0xAA : Byte)).length = 131073 :=
  ⟨test_cfg0_valid, rfl, rfl, rfl, by decide, by decide, (List.append_nil _).symm,
    by rw [List.length_replicate]; decide, rfl, by decide, by decide, (List.append_nil _).symm, List.length_replicate⟩

theorem witness_WriteSramRunWritesBuffer :
    (dispatched 0x21 131072).cfg.valid = true ∧ (dispatched 0x21 131072).state = .workerBusy ∧
    (dispatched 0x21 131072).seq = .idle ∧ (dispatched 0x21 131072).inputs = [] ∧
    (dispatched 0x21 131072).wcr = commandWord Cfg.cfg0.tagWriteSram 131072 ∧ (131072 : Param).toNat ≤ 131072 ∧
    (dispatched 0x21 131072).seqFault = none ∧ 131072 < (131073 : Param).toNat ∧
    (dispatched 0x21 131073).wcr = commandWord Cfg.cfg0.tagWriteSram 131073 := by decide +kernel

theorem witness_SaveReadRunFillsBuffer :
    (dispatched 0x24 2).cfg.valid = true ∧ (dispatched 0x24 2).state = .workerBusy ∧ (dispatched 0x24 2).seq = .idle ∧
    (dispatched 0x24 2).inputs = [] ∧ 0x22 = Cfg.cfg0.tagReadFlash ∧ 0x24 = Cfg.cfg0.tagReadEeprom ∧
    (dispatched 0x24 2).wcr = commandWord 0x24 2 ∧ (2 : Param).toNat ≤ 131072 ∧
    ({ dispatched 0x24 2 with saveReads := [some ⟨[0x11, 0x22], .error 1⟩] } : State).saveReads =
      some ⟨[0x11, 0x22], .error 1⟩ :: [] ∧
    (⟨[0x11, 0x22], .error 1⟩ : SaveReadAnswer).bytes.length = (2 : Param).toNat ∧ (dispatched 0x24 2).seqFault = none := by
  decide +kernel

/-- The same with a length past the Buffer. -/
theorem witness_SaveReadRunFillsBuffer_past :
    (dispatched 0x22 131073).wcr = commandWord 0x22 131073 ∧ 131072 < (131073 : Param).toNat ∧
    ({ dispatched 0x22 131073 with saveReads := [some ⟨List.replicate 131073 0xAA, .ok⟩] } : State).saveReads =
      some ⟨List.replicate 131073 0xAA, .ok⟩ :: [] ∧
    (⟨List.replicate 131073 0xAA, .ok⟩ : SaveReadAnswer).bytes.length = (131073 : Param).toNat :=
  ⟨by decide, by decide, rfl, by rw [List.length_replicate]; decide⟩

theorem witness_SaveWriteRunSendsBuffer :
    (dispatched 0x25 131072).cfg.valid = true ∧ (dispatched 0x25 131072).state = .workerBusy ∧
    (dispatched 0x25 131072).seq = .idle ∧ (dispatched 0x25 131072).inputs = [] ∧ 0x23 = Cfg.cfg0.tagWriteFlash ∧
    0x25 = Cfg.cfg0.tagWriteEeprom ∧ (dispatched 0x25 131072).wcr = commandWord 0x25 131072 ∧
    (131072 : Param).toNat ≤ 131072 ∧ (dispatched 0x25 131072).seqFault = none ∧ 131072 < (131073 : Param).toNat ∧
    (dispatched 0x25 131073).wcr = commandWord 0x25 131073 ∧
    ({ dispatched 0x25 131072 with saveWrites := [some .ok] } : State).saveWrites = some .ok :: [] := by decide +kernel

/-- A failing chunk 1, as in vector W9; and the last chunk. -/
theorem witness_ProgramRunWritesChunksInOrder :
    (dispatched 0x34 512).cfg.valid = true ∧ (dispatched 0x34 512).state = .workerBusy ∧ (dispatched 0x34 512).seq = .idle ∧
    (dispatched 0x34 512).inputs = [] ∧ (dispatched 0x34 512).seqFault = none ∧ (dispatched 0x34 512).wcr = commandWord Cfg.cfg0.tagProgram 512 ∧
    (0x08020000 : Word) = Cfg.cfg0.romBase + (512 : Param).setWidth 32 * 256 ∧ 1 < 65536 / Cfg.cfg0.wbHalfwords ∧
    ((0x0090 : Halfword) &&& Cfg.cfg0.srReady) ≠ 0 ∧ (0x0090 : Halfword) ≠ Cfg.cfg0.srOk ∧
    4095 + 1 = 65536 / Cfg.cfg0.wbHalfwords ∧
    ({ dispatched 0x34 512 with cart16 := [0x80, 0x80, 0x80, 0x90] } : State).cart16 =
      List.replicate (2 * 1 + 1) Cfg.cfg0.srOk ++ 0x90 :: [] := by decide +kernel

theorem witness_StepRunsIncomingInstruction :
    ({ idleF with inputs := [.exchange 0x10000010] } : State).inputs = .exchange 0x10000010 :: [] ∧
    idleF.fsmFault = none := by decide

theorem witness_StepRunsLatchedCommand :
    ({ started 0x10000010 with inputs := [.sequencer] } : State).inputs = .sequencer :: [] ∧
    (started 0x10000010).inputs = [] ∧ (started 0x10000010).state = .workerBusy ∧ (started 0x10000010).seq = .idle ∧
    (started 0x10000010).seqFault = none ∧ (busyAt 0x10000010 .crcByte {}).seqFault = none ∧
    (busyAt 0x10000010 .crcByte {}).seq = .running 0x10000010 .crcByte {} ∧ idleF.state ≠ .workerBusy ∧
    (atEnd.stopSeq 131072).seqFault ≠ none := by decide

theorem witness_ResetEventFromAnyState :
    ({ busyAt 0x10000010 .crcByte {} with inputs := [.reset] } : State).inputs = .reset :: [] := by decide

/-- One move for every row of the table, the faulting step and the stopped FSM among them. -/
theorem witness_StateFollowsTheTransitionTable :
    (∃ t, Inv { inState .idle 7 7 with inputs := [.exchange 0x02000000] } ∧
      stateAfter { inState .idle 7 7 with inputs := [.exchange 0x02000000] } = some t) ∧
    (∃ t, Inv { inState .uploading 0 0 with inputs := [.exchange 5] } ∧
      stateAfter { inState .uploading 0 0 with inputs := [.exchange 5] } = some t) ∧
    (∃ t, Inv { inState .downloading 32769 32768 with inputs := [.exchange 5] } ∧
      stateAfter { inState .downloading 32769 32768 with inputs := [.exchange 5] } = some t) ∧
    (∃ t, Inv { inState .reading 7 7 with inputs := [.exchange 5] } ∧
      stateAfter { inState .reading 7 7 with inputs := [.exchange 5] } = some t) ∧
    (∃ t, Inv { atEnd with inputs := [.exchange 5] } ∧ stateAfter { atEnd with inputs := [.exchange 5] } = some t) ∧
    (∃ t, Inv { stoppedFsm with inputs := [.exchange 5] } ∧
      stateAfter { stoppedFsm with inputs := [.exchange 5] } = some t ∧ stoppedFsm.fsmFault ≠ none) ∧
    (∃ t, Inv (busyAt 0x10000009 .release {}) ∧ stateAfter (busyAt 0x10000009 .release {}) = some t ∧
      (busyAt 0x10000009 .release {}).seqFault = none ∧ t.state ≠ .workerBusy) ∧
    (∃ t, Inv { atEnd with inputs := [.reset] } ∧ stateAfter { atEnd with inputs := [.reset] } = some t) :=
  ⟨⟨_, inv_environment (inv_inState .idle 7 7 (by decide) (by decide) (by decide) (by decide) (by decide) (by decide))
      _ [] _, rfl⟩,
    ⟨_, inv_environment
      (inv_inState .uploading 0 0 (by decide) (by decide) (by decide) (by decide) (by decide) (by decide)) _ [] _, rfl⟩,
    ⟨_, inv_environment
      (inv_inState .downloading 32769 32768 (by decide) (by decide) (by decide) (by decide) (by decide) (by decide))
      _ [] _, rfl⟩,
    ⟨_, inv_environment (inv_inState .reading 7 7 (by decide) (by decide) (by decide) (by decide) (by decide) (by decide))
      _ [] _, rfl⟩,
    ⟨_, inv_environment inv_atEnd _ [] _, rfl⟩, ⟨_, inv_environment inv_stoppedFsm _ [] _, rfl, by decide⟩,
    ⟨_, inv_busyAt _ _ _ (by decide) (by decide), rfl, rfl, by decide⟩, ⟨_, inv_environment inv_atEnd _ [] _, rfl⟩⟩

/-- A step in the middle of an operation, and one that faults. -/
theorem witness_InvariantKeptByEveryStep :
    (Inv (busyAt 0x10000010 .crcByte { n := 16, i := 3 }) ∧
      ∃ t, stateAfter (busyAt 0x10000010 .crcByte { n := 16, i := 3 }) = some t) ∧
    (Inv atEnd ∧ ∃ t, stateAfter atEnd = some t ∧ t.seqFault = some 131072) :=
  ⟨⟨inv_busyAt _ _ _ (by decide) (by decide), _, rfl⟩, inv_atEnd, _, rfl, rfl⟩

/-- The FSM's fault, the sequencer's, READ_SRAM's, and an exchange with an FSM that has stopped. -/
theorem witness_FaultOnlyAtTheEndOfTheBuffer :
    (∃ t, Inv { inState .uploading 32769 32768 with inputs := [.exchange 1] } ∧
      step { inState .uploading 32769 32768 with inputs := [.exchange 1] } = .fault (.bufferRange 32768 t)) ∧
    (∃ t, Inv atEnd ∧ step atEnd = .fault (.bufferRange 131072 t) ∧ sequencerInstr atEnd = .crc32 131073) ∧
    (∃ t, Inv (busyAt 0x20020001 .readSramByte { n := 131073, i := 131072 }) ∧
      step (busyAt 0x20020001 .readSramByte { n := 131073, i := 131072 }) = .fault (.bufferRange 131072 t) ∧
      sequencerInstr (busyAt 0x20020001 .readSramByte {}) = .readSram 131073 ∧
      (0x0E020000 : Word) = Cfg.cfg0.sramBase + 131072) ∧
    (∃ t, Inv { stoppedFsm with inputs := [.exchange 1] } ∧ stoppedFsm.fsmFault = some 32768 ∧
      step { stoppedFsm with inputs := [.exchange 1] } = .fault (.bufferRange 32768 t)) :=
  ⟨⟨_, inv_environment
      (inv_inState .uploading 32769 32768 (by decide) (by decide) (by decide) (by decide) (by decide) (by decide))
      _ [] _, rfl⟩,
    ⟨_, inv_atEnd, rfl, rfl⟩, ⟨_, inv_busyAt _ _ _ (by decide) (by decide), rfl, rfl, by decide⟩,
    ⟨_, inv_environment inv_stoppedFsm _ [] _, rfl, rfl⟩⟩

theorem witness_NoStepIsRefused : Inv (started 0x10000010) := inv_started _ (by decide)

theorem witness_StepKeepsConfigurationAndHistory :
    (∃ t, stateAfter (started 0x10000010) = some t) ∧ ∃ t, stateAfter atEnd = some t := ⟨⟨_, rfl⟩, _, rfl⟩

/-- A step with an exchange, one with an FSM that has stopped, and a step of the sequencer without one. -/
theorem witness_ExchangeDeliversTheOldTxd :
    (∃ t, stateAfter { idleF with inputs := [.exchange 0x10000010] } = some t ∧ idleF.fsmFault = none) ∧
    (∃ t, stateAfter { stoppedFsm with inputs := [.exchange 5] } = some t ∧ stoppedFsm.fsmFault ≠ none) ∧
    (∃ t, stateAfter (started 0x10000010) = some t) ∧ ∀ rx rest, (started 0x10000010).inputs ≠ .exchange rx :: rest :=
  ⟨⟨_, rfl, rfl⟩, ⟨_, rfl, by decide⟩, ⟨_, rfl⟩, fun _ _ => by simp [started, idleF, State.reset]⟩

/-- A dispatch and the write of a result. -/
theorem witness_OnlyDispatchAndResultWriteWcr :
    (∃ t, stateAfter { idleF with inputs := [.exchange 0x10000010] } = some t ∧ t.wcr ≠ idleF.wcr) ∧
    (∃ t, stateAfter (busyAt 0x10000010 .writeResult { result := 5 }) = some t ∧ t.wcr ≠ 0x10000010) :=
  ⟨⟨_, rfl, by decide⟩, ⟨_, rfl, by decide⟩⟩

/-- An `Uploading` step, a store by the sequencer, and an exchange in `WorkerBusy`. -/
theorem witness_BufferWritersExcludeEachOther :
    (∃ t, stateAfter { inState .uploading 1 0 with inputs := [.exchange 5] } = some t ∧ t.buf ≠ idleF.buf) ∧
    (∃ t, stateAfter { busyAt 0x20000001 .readSramByte { n := 1 } with cart8 := [0x55] } = some t ∧ t.buf ≠ idleF.buf) ∧
    (∃ t, stateAfter { started 0x10000010 with inputs := [.exchange 5] } = some t) ∧
    (started 0x10000010).fsmFault = none :=
  ⟨⟨_, rfl, by decide⟩, ⟨_, rfl, by decide⟩, ⟨_, rfl⟩, rfl⟩

/-- A micro-step that completes, and one that faults. -/
theorem witness_ExchangeDoesNotDisturbTheSequencer :
    (Inv (started 0x10000010) ∧ (started 0x10000010).state = .workerBusy) ∧ Inv atEnd ∧ atEnd.state = .workerBusy :=
  ⟨⟨inv_started _ (by decide), rfl⟩, inv_atEnd, rfl⟩

/-- Two words, and the length 0. -/
theorem witness_UploadThenDownloadReturnsTheWords :
    idleF.cfg.valid = true ∧ idleF.fsmFault = none ∧ idleF.state = .idle ∧ [0xDEADBEEF, (0xCAFEBABE : Word)].length = (2 : Param).toNat ∧
    1 ≤ (2 : Param).toNat ∧ (2 : Param).toNat ≤ 32768 ∧ (32768 : Param).toNat ≤ 32768 ∧ Memory.wf idleF.buf = true ∧
    ({ idleF with inputs := hostSends [0x01000002, 0xDEADBEEF, 0xCAFEBABE, 0x02000002, 5, 6] } : State).inputs =
      hostSends (commandWord Cfg.cfg0.tagUpload 2 :: [0xDEADBEEF, 0xCAFEBABE] ++
        commandWord Cfg.cfg0.tagDownload 2 :: [5, 6]) ∧
    ({ idleF with inputs := hostSends [0x01000000, 5, 0x02000000, 6] } : State).inputs =
      hostSends [commandWord Cfg.cfg0.tagUpload 0, 5, commandWord Cfg.cfg0.tagDownload 0, 6] := by decide +kernel

theorem witness_ReadDeliversWcrInTheNextExchange :
    idleF.cfg.valid = true ∧ idleF.fsmFault = none ∧ idleF.state = .idle ∧
    ({ idleF with inputs := [.exchange 0x03ABCDEF, .exchange 5] } : State).inputs =
      .exchange (commandWord Cfg.cfg0.tagRead 0xABCDEF) :: .exchange 5 :: [] := by decide +kernel

theorem witness_WorkerSequenceReturnsTheCrc :
    idleF.cfg.valid = true ∧ idleF.state = .idle ∧ idleF.seq = .idle ∧ idleF.fsmFault = none ∧
    idleF.seqFault = none ∧ (1 : Param).toNat ≤ 131072 ∧
    ({ idleF with
        inputs := .exchange 0x10000001 :: List.replicate 4 .sequencer ++
          hostSends [0x004E4F50, 0x004E4F50, 0x03000000, 5] } : State).inputs =
      .exchange (commandWord Cfg.cfg0.tagCrc32 1) :: List.replicate ((1 : Param).toNat + 3) .sequencer ++
        hostSends [Cfg.cfg0.nopWord, Cfg.cfg0.nopWord, commandWord Cfg.cfg0.tagRead 0, 5] := by decide +kernel

/-- Two exchanges after the fault, and then no more moves, or a reset. -/
theorem witness_StoppedSequencerAnswersBusyForEver :
    (∀ is, Inv { atEnd with inputs := is, txd := 0x42555359 }) ∧ atEnd.state = .workerBusy ∧
    (0x42555359 : Word) = atEnd.cfg.busyWord ∧
    (∃ t, step { atEnd with inputs := [.sequencer, .exchange 1, .sequencer, .exchange 2], txd := 0x42555359 } =
      .fault (.bufferRange 131072 t) ∧ t.inputs = [.exchange 1, .sequencer, .exchange 2] ++ []) ∧
    (∃ t, step { atEnd with inputs := [.sequencer, .exchange 1, .reset], txd := 0x42555359 } =
      .fault (.bufferRange 131072 t) ∧ t.inputs = [.exchange 1] ++ [.reset]) ∧
    (∀ m ∈ [Input.exchange 1, .sequencer, .exchange 2], m ≠ .reset) :=
  ⟨fun _ => inv_environment inv_atEnd _ [] _, rfl, rfl, ⟨_, rfl, rfl⟩, ⟨_, rfl, rfl⟩, by decide⟩

/-- A step that makes a 16-bit access. -/
theorem witness_FlashAccessesAreAtEvenAddresses :
    Inv (busyAt 0x33000000 (.erase .setup) { a := 0x08000000 }) ∧
    ∃ t, stateAfter (busyAt 0x33000000 (.erase .setup) { a := 0x08000000 }) = some t ∧
      t.history = [.w16 0x08000000 0x0020] ++ [.reset] ∧ Event.w16 0x08000000 0x0020 ∈ [Event.w16 0x08000000 0x0020] :=
  ⟨inv_busyAt _ _ _ (by decide) (by decide), _, rfl, rfl, by decide⟩

/-- The last word, halfword and byte; a low and a high halfword; a byte inside and outside what is read. -/
theorem witness_BufferViewsAlias :
    Memory.wf idleF.buf = true ∧ 32767 < 32768 ∧ 65535 < 65536 ∧ 131071 < 131072 ∧ 65534 % 2 = 0 ∧ ¬ 65535 % 2 = 0 ∧
    2 * 65535 + 1 = 131071 ∧ 4 * 32767 + 3 = 131071 ∧ ¬ 4 * 32767 + 2 = 131071 := by decide

end Sys2Proof.Tests
end

/-! PROOFS of the family `00_scope.md`: no step is refused under the invariant, and every step keeps the configuration and
only adds to the history and to the faults on record. Both rest on one judgement, `Continues s r`: the answer `r` is a next
state or a fault, and the state it leaves has grown from `s`. -/

namespace Sys2Proof.Proofs

open Sys2Proof.Machine Sys2Proof.Laws

/-! ### A state that has grown from another -/

/-- `t` has the configuration of `s`, and what `s` has on record is a tail of what `t` has (R15, R78, R224). -/
structure Grows (s t : State) : Prop where
  cfg : t.cfg = s.cfg
  history : s.history <:+ t.history
  faults : s.faults <:+ t.faults

theorem Grows.refl (s : State) : Grows s s := ⟨rfl, List.suffix_rfl, List.suffix_rfl⟩

theorem Grows.trans {s t u : State} (h : Grows s t) (h' : Grows t u) : Grows s u :=
  ⟨h'.cfg.trans h.cfg, h.history.trans h'.history, h.faults.trans h'.faults⟩

/-- An update that touches none of the three fields. -/
theorem Grows.silent {s t u : State} (h : Grows s t) (hc : u.cfg = t.cfg := by simp)
    (hh : u.history = t.history := by simp) (hf : u.faults = t.faults := by simp) : Grows s u :=
  h.trans ⟨hc, hh ▸ List.suffix_rfl, hf ▸ List.suffix_rfl⟩

/-- An update that records one event. -/
theorem Grows.event {s t u : State} (h : Grows s t) (hh : ∃ e, u.history = e :: t.history := by simp)
    (hc : u.cfg = t.cfg := by simp) (hf : u.faults = t.faults := by simp) : Grows s u := by
  obtain ⟨e, hh⟩ := hh
  exact h.trans ⟨hc, hh ▸ List.suffix_cons e t.history, hf ▸ List.suffix_rfl⟩

/-- An agent that stops puts its fault on record. -/
theorem Grows.fault {s t u : State} (h : Grows s t) (hf : ∃ i, u.faults = i :: t.faults := by simp)
    (hc : u.cfg = t.cfg := by simp) (hh : u.history = t.history := by simp) : Grows s u := by
  obtain ⟨i, hf⟩ := hf
  exact h.trans ⟨hc, hh ▸ List.suffix_rfl, hf ▸ List.suffix_cons i t.faults⟩

/-! ### An answer that is no refusal -/

/-- The answer is a next state or a fault, and the state it leaves has grown from `s`. -/
inductive Continues (s : State) : Result → Prop
  | next {t : State} (h : Grows s t) : Continues s (.next t)
  | fault {t : State} (i : Nat) (h : Grows s t) : Continues s (.fault (.bufferRange i t))

theorem Continues.of_grows {s t : State} {r : Result} (h : Grows s t) (hr : Continues t r) : Continues s r := by
  cases hr with
  | next h' => exact .next (h.trans h')
  | fault i h' => exact .fault i (h.trans h')

theorem not_continues_refused {s : State} {e : Refusal} : ¬ Continues s (.refused e) := nofun

/-! ### The shared operations -/

theorem continues_raiseSeq (i : Nat) (s : State) : Continues s (raiseSeq i s) := .fault i (Grows.refl s).fault

theorem continues_raiseFsm (i : Nat) (s : State) : Continues s (raiseFsm i s) := .fault i (Grows.refl s).fault

theorem continues_loadBuf8 {i : Nat} {s : State} {k : Byte → Result} (hk : ∀ b, Continues s (k b)) :
    Continues s (loadBuf8 i s k) := by
  by_cases h : i < bufBytes
  · exact loadBuf8_inside s k h ▸ hk _
  · exact loadBuf8_outside s k h ▸ continues_raiseSeq i s

theorem continues_loadBuf16 {i : Nat} {s : State} {k : Halfword → Result} (hk : ∀ v, Continues s (k v)) :
    Continues s (loadBuf16 i s k) := by
  by_cases h : i < bufHalfwords
  · exact loadBuf16_inside s k h ▸ hk _
  · exact loadBuf16_outside s k h ▸ continues_raiseSeq i s

theorem continues_loadBuf32 {i : Nat} {s : State} {k : Word → Result} (hk : ∀ w, Continues s (k w)) :
    Continues s (loadBuf32 i s k) := by
  by_cases h : i < bufWords
  · exact loadBuf32_inside s k h ▸ hk _
  · exact loadBuf32_outside s k h ▸ continues_raiseFsm i s

theorem continues_storeBuf8 {i : Nat} {v : Byte} {s : State} {k : State → Result}
    (hk : ∀ m, Continues s (k (s.setBuf m))) : Continues s (storeBuf8 i v s k) := by
  by_cases h : i < bufBytes
  · exact storeBuf8_inside v s k h ▸ hk _
  · exact storeBuf8_outside v s k h ▸ continues_raiseSeq i s

theorem continues_storeBuf16 {i : Nat} {v : Halfword} {s : State} {k : State → Result}
    (hk : ∀ m, Continues s (k (s.setBuf m))) : Continues s (storeBuf16 i v s k) := by
  by_cases h : i < bufHalfwords
  · exact storeBuf16_inside v s k h ▸ hk _
  · exact storeBuf16_outside v s k h ▸ continues_raiseSeq i s

theorem continues_storeBuf32 {i : Nat} {v : Word} {s : State} {k : State → Result}
    (hk : ∀ m, Continues s (k (s.setBuf m))) : Continues s (storeBuf32 i v s k) := by
  by_cases h : i < bufWords
  · exact storeBuf32_inside v s k h ▸ hk _
  · exact storeBuf32_outside v s k h ▸ continues_raiseFsm i s

theorem grows_cartRead16 (a : Word) (s : State) : Grows s (cartRead16 a s) := (Grows.refl s).event

theorem grows_cartRead8 (a : Word) (s : State) : Grows s (cartRead8 a s) := (Grows.refl s).event

theorem grows_takeExchange (rx : Word) (s : State) : Grows s (takeExchange rx s) := (Grows.refl s).event

theorem grows_resetEvent (s : State) : Grows s (resetEvent s) := (Grows.refl s).event

theorem continues_dispatchWorker (rx : Word) (s : State) : Continues s (dispatchWorker rx s) :=
  .next (Grows.refl s).silent

/-- A poll reads the status once, whether it goes on or waits (R151, R225). -/
theorem continues_pollStatus {a cmd : Word} {pos : SeqPos} {l : SeqLocals} {s : State} {k : SeqLocals → State → Result}
    (hk : ∀ l', Continues (cartRead16 a s) (k l' (cartRead16 a s))) : Continues s (pollStatus a cmd pos l s k) := by
  cases h : statusReady s.cfg (cartValue16 a s) with
  | true => exact pollStatus_ready k h ▸ (hk _).of_grows (grows_cartRead16 a s)
  | false => exact pollStatus_busy k h ▸ .next (grows_cartRead16 a s).silent

theorem continues_saveReadTransfer (kind : SaveKind) (stay copy : SeqPos) (cmd : Word) (l : SeqLocals) (s : State) :
    Continues s (saveReadTransfer kind stay copy cmd l s) := by
  obtain ⟨-, hr⟩ | ⟨ans, l', s', -, -, rfl, hr⟩ := saveReadTransfer_cases kind stay copy cmd l s <;> rw [hr]
  · exact .next (Grows.refl s).silent
  · refine .next ?_
    split <;> exact (Grows.refl s).event

theorem continues_saveReadCopy (copy : SeqPos) (cmd : Word) (l : SeqLocals) (s : State) :
    Continues s (saveReadCopy copy cmd l s) := by
  obtain ⟨-, hr⟩ | ⟨b, rest, l', s', -, -, -, rfl, hr⟩ | ⟨-, -, hr⟩ := saveReadCopy_cases copy cmd l s <;> rw [hr]
  · exact .next (Grows.refl s).silent
  · refine .next ?_
    split <;> exact (Grows.refl s).silent
  · exact continues_raiseSeq l.i s

theorem continues_saveWriteGather (gather transfer : SeqPos) (cmd : Word) (l : SeqLocals) (s : State) :
    Continues s (saveWriteGather gather transfer cmd l s) :=
  continues_loadBuf8 fun _ => .next (Grows.refl s).silent

theorem continues_saveWriteTransfer (kind : SaveKind) (stay : SeqPos) (cmd : Word) (l : SeqLocals) (s : State) :
    Continues s (saveWriteTransfer kind stay cmd l s) := by
  obtain ⟨-, hr⟩ | ⟨o, -, hr⟩ := saveWriteTransfer_cases kind stay cmd l s <;> rw [hr]
  · exact .next (Grows.refl s).silent
  · exact .next (Grows.refl s).event

/-- Completion refuses at a position that is not its own, and only there. -/
theorem completeOperation_refused_or_continues (cmd : Word) (pos : SeqPos) (l : SeqLocals) (s : State) :
    completeOperation cmd pos l s = .refused (.notAtThisOperation pos) ∨
      Continues s (completeOperation cmd pos l s) := by
  obtain ⟨-, hr⟩ | ⟨-, hr⟩ | ⟨-, -, hr⟩ := completeOperation_cases cmd pos l s
  · exact .inr (hr ▸ .next (Grows.refl s).silent)
  · exact .inr (hr ▸ .next (Grows.refl s).silent)
  · exact .inl hr

/-! ### The micro-steps -/

theorem continues_crcMicroStep (cmd : Word) (l : SeqLocals) (s : State) : Continues s (crcMicroStep cmd l s) := by
  refine continues_loadBuf8 fun b => .next ?_
  unfold crcContinue
  split <;> exact (Grows.refl s).silent

theorem continues_idMicroStep (p : IdPos) (cmd : Word) (l : SeqLocals) (s : State) :
    Continues s (idMicroStep p cmd l s) := by
  cases p with
  | command => exact .next (Grows.refl s).event
  | manufacturer => exact .next (Grows.refl s).event
  | device =>
    refine .next ((grows_cartRead16 (l.a + 2) s).trans ?_)
    split
    · exact (Grows.refl _).event
    · exact (Grows.refl _).silent

theorem continues_statusPoll (pos : SeqPos) (cmd : Word) (l : SeqLocals) (s : State) :
    Continues s (statusPoll pos cmd l s) :=
  continues_pollStatus fun _ => .next (Grows.refl _).silent

theorem continues_unlockMicroStep (p : LockPos) (cmd : Word) (l : SeqLocals) (s : State) :
    Continues s (unlockMicroStep p cmd l s) := by
  cases p with
  | setup => exact .next (Grows.refl s).event
  | confirm => exact .next (Grows.refl s).event
  | poll => exact continues_statusPoll (.unlock .poll) cmd l s

theorem continues_eraseMicroStep (p : LockPos) (cmd : Word) (l : SeqLocals) (s : State) :
    Continues s (eraseMicroStep p cmd l s) := by
  cases p with
  | setup => exact .next (Grows.refl s).event
  | confirm => exact .next (Grows.refl s).event
  | poll => exact continues_statusPoll (.erase .poll) cmd l s

theorem continues_programNext (cmd : Word) (l : SeqLocals) (s : State) : Continues s (programNext cmd l s) := by
  unfold programNext
  split <;> exact .next (Grows.refl s).silent

theorem continues_programMicroStep (p : ProgramPos) (cmd : Word) (l : SeqLocals) (s : State) :
    Continues s (programMicroStep p cmd l s) := by
  cases p with
  | ready =>
    rw [programMicroStep]
    exact continues_pollStatus fun _ => .next (Grows.refl _).silent
  | command => exact .next (Grows.refl s).event
  | count => exact .next (Grows.refl s).event
  | data => exact continues_loadBuf16 fun _ => .next (Grows.refl s).event
  | confirm => exact .next (Grows.refl s).event
  | verdict => exact continues_pollStatus fun l' => continues_programNext cmd l' _

theorem continues_dumpMicroStep (cmd : Word) (l : SeqLocals) (s : State) : Continues s (dumpMicroStep cmd l s) := by
  refine Continues.of_grows (grows_cartRead16 (halfwordAddress l.a l.j) s) (continues_storeBuf16 fun _ => ?_)
  exact .next (Grows.refl _).silent

theorem continues_readSramMicroStep (cmd : Word) (l : SeqLocals) (s : State) :
    Continues s (readSramMicroStep cmd l s) := by
  refine Continues.of_grows (grows_cartRead8 (sramAddress s.cfg l.i) s) (continues_storeBuf8 fun _ => ?_)
  exact .next (Grows.refl _).silent

theorem continues_writeSramMicroStep (cmd : Word) (l : SeqLocals) (s : State) :
    Continues s (writeSramMicroStep cmd l s) :=
  continues_loadBuf8 fun b => .next (Grows.refl s).event

theorem continues_readFlashMicroStep (p : SaveReadPos) (cmd : Word) (l : SeqLocals) (s : State) :
    Continues s (readFlashMicroStep p cmd l s) := by
  cases p with
  | transfer => exact continues_saveReadTransfer .flash _ _ cmd l s
  | copy => exact continues_saveReadCopy _ cmd l s

theorem continues_writeFlashMicroStep (p : SaveWritePos) (cmd : Word) (l : SeqLocals) (s : State) :
    Continues s (writeFlashMicroStep p cmd l s) := by
  cases p with
  | gather => exact continues_saveWriteGather _ _ cmd l s
  | transfer => exact continues_saveWriteTransfer .flash _ cmd l s

theorem continues_readEepromMicroStep (p : SaveReadPos) (cmd : Word) (l : SeqLocals) (s : State) :
    Continues s (readEepromMicroStep p cmd l s) := by
  cases p with
  | transfer => exact continues_saveReadTransfer .eeprom _ _ cmd l s
  | copy => exact continues_saveReadCopy _ cmd l s

theorem continues_writeEepromMicroStep (p : SaveWritePos) (cmd : Word) (l : SeqLocals) (s : State) :
    Continues s (writeEepromMicroStep p cmd l s) := by
  cases p with
  | gather => exact continues_saveWriteGather _ _ cmd l s
  | transfer => exact continues_saveWriteTransfer .eeprom _ cmd l s

/-! ### What the sequencer executes, by its position -/

/-- The micro-step that belongs to a position of the sequencer. `exec_at_operation` and
`exec_running_cases` tie it to `exec`; the instruction is needed only for the word that the default arm logs (R187). -/
def microStepAt (i : Instr) (cmd : Word) (pos : SeqPos) (l : SeqLocals) (s : State) : Result :=
  match pos with
  | .crcByte => crcMicroStep cmd l s
  | .id p => idMicroStep p cmd l s
  | .unlock p => unlockMicroStep p cmd l s
  | .erase p => eraseMicroStep p cmd l s
  | .program p => programMicroStep p cmd l s
  | .dumpHalfword => dumpMicroStep cmd l s
  | .readSramByte => readSramMicroStep cmd l s
  | .writeSramByte => writeSramMicroStep cmd l s
  | .readFlash p => readFlashMicroStep p cmd l s
  | .writeFlash p => writeFlashMicroStep p cmd l s
  | .readEeprom p => readEepromMicroStep p cmd l s
  | .writeEeprom p => writeEepromMicroStep p cmd l s
  | .logUnrecognised => .next ((s.record (.diag (.unrecognisedWorkerCommand (encode s.cfg i)))).toPos cmd .release l)
  | .writeResult => .next ((s.latch l.result).toPos cmd .release l)
  | .release => .next s.releaseSeq

theorem continues_microStepAt (i : Instr) (cmd : Word) (pos : SeqPos) (l : SeqLocals) (s : State) :
    Continues s (microStepAt i cmd pos l s) := by
  cases pos with
  | crcByte => exact continues_crcMicroStep cmd l s
  | id p => exact continues_idMicroStep p cmd l s
  | unlock p => exact continues_unlockMicroStep p cmd l s
  | erase p => exact continues_eraseMicroStep p cmd l s
  | program p => exact continues_programMicroStep p cmd l s
  | dumpHalfword => exact continues_dumpMicroStep cmd l s
  | readSramByte => exact continues_readSramMicroStep cmd l s
  | writeSramByte => exact continues_writeSramMicroStep cmd l s
  | readFlash p => exact continues_readFlashMicroStep p cmd l s
  | writeFlash p => exact continues_writeFlashMicroStep p cmd l s
  | readEeprom p => exact continues_readEepromMicroStep p cmd l s
  | writeEeprom p => exact continues_writeEepromMicroStep p cmd l s
  | logUnrecognised => exact .next (Grows.refl s).event
  | writeResult => exact .next (Grows.refl s).silent
  | release => exact .next (Grows.refl s).silent

/-- Only an operation with a result may write one, and every such operation is the sequencer's. -/
theorem isSequencerInstr_of_hasResult {i : Instr} (h : hasResult i = true) : isSequencerInstr i = true := by
  cases i <;> simp_all [hasResult, isSequencerInstr]

/-- Beside the twelve the sequencer executes its default arm only (R131). -/
theorem eq_unrecognisedWorker {i : Instr} (hs : isSequencerInstr i = true) (hw : isWorkerCommand i = false) :
    ∃ t p, i = .unrecognisedWorker t p := by
  cases i <;> simp_all [isSequencerInstr, isWorkerCommand]

/-- Where the invariant lets the sequencer stand, its instruction's meaning is the micro-step of that position. -/
theorem exec_at_operation {i : Instr} {s : State} {cmd : Word} {pos : SeqPos} {l : SeqLocals}
    (hw : s.state = .workerBusy) (hq : s.seq = .running cmd pos l) (hop : operationAt s.cfg i pos l = true) :
    exec i s = microStepAt i cmd pos l s := by
  cases pos <;>
    simp only [operationAt, Bool.and_eq_true, decide_eq_true_eq, Bool.not_eq_true', and_assoc] at hop
  case crcByte => exact hop.1 ▸ exec_crc32_micro _ hw hq
  case id p => exact hop.1 ▸ exec_id_micro _ hw hq
  case unlock p => exact hop.1 ▸ exec_unlock_micro _ hw hq
  case erase p => exact hop.1 ▸ exec_erase_micro _ hw hq
  case program p => exact hop.1 ▸ exec_program_micro _ hw hq
  case dumpHalfword => exact hop.1 ▸ exec_dump_micro _ hw hq
  case readSramByte => exact hop.1 ▸ exec_readSram_micro _ hw hq
  case writeSramByte => exact hop.1 ▸ exec_writeSram_micro _ hw hq
  case readFlash p => exact hop.1 ▸ exec_readFlash_micro _ hw hq
  case writeFlash p => exact hop.1 ▸ exec_writeFlash_micro _ hw hq
  case readEeprom p => exact hop.1 ▸ exec_readEeprom_micro _ hw hq
  case writeEeprom p => exact hop.1 ▸ exec_writeEeprom_micro _ hw hq
  case logUnrecognised =>
    obtain ⟨hs, hw'⟩ := hop
    obtain ⟨t, p, rfl⟩ := eq_unrecognisedWorker hs hw'
    exact exec_unrecognisedWorker_micro t p hq
  case writeResult => exact exec_complete (isSequencerInstr_of_hasResult hop) hw hq (.inl rfl)
  case release => exact exec_complete hop hw hq (.inr rfl)

/-- At any position, also one of another operation, a sequencer instruction is the micro-step of that position or the shared
completion: each of the thirteen meanings has these two branches. -/
theorem exec_running_cases {i : Instr} {s : State} {cmd : Word} {pos : SeqPos} {l : SeqLocals}
    (hi : isSequencerInstr i = true) (hw : s.state = .workerBusy) (hq : s.seq = .running cmd pos l) :
    exec i s = microStepAt i cmd pos l s ∨ exec i s = completeOperation cmd pos l s := by
  cases i <;> cases hi <;>
    simp only [exec, execCrc32, execReadSram, execWriteSram, execReadFlash, execWriteFlash, execReadEeprom,
      execWriteEeprom, execDump, execId, execUnlock, execErase, execProgram, execUnrecognisedWorker, hw, hq, if_true]
  all_goals
    split
    · exact .inl rfl
    · exact .inr rfl

/-- The start of an operation moves the sequencer to a first position; CRC32's also loads `CRCACC` (R131, R138). -/
theorem exec_start {i : Instr} {s : State} (hi : isSequencerInstr i = true) (hw : s.state = .workerBusy)
    (hq : s.seq = .idle) : ∃ acc pos l, exec i s = .next ((s.setAcc acc).toPos s.wcr pos l) := by
  cases i with
  | crc32 n =>
    rw [exec_crc32_start n hw hq, crcContinue]
    split <;> exact ⟨_, _, _, rfl⟩
  | readSram n => exact ⟨_, _, _, exec_readSram_start n hw hq⟩
  | writeSram n => exact ⟨_, _, _, exec_writeSram_start n hw hq⟩
  | readFlash n => exact ⟨_, _, _, exec_readFlash_start n hw hq⟩
  | writeFlash n => exact ⟨_, _, _, exec_writeFlash_start n hw hq⟩
  | readEeprom n => exact ⟨_, _, _, exec_readEeprom_start n hw hq⟩
  | writeEeprom n => exact ⟨_, _, _, exec_writeEeprom_start n hw hq⟩
  | dump n => exact ⟨_, _, _, exec_dump_start n hw hq⟩
  | id n => exact ⟨_, _, _, exec_id_start n hw hq⟩
  | unlock n => exact ⟨_, _, _, exec_unlock_start n hw hq⟩
  | erase n => exact ⟨_, _, _, exec_erase_start n hw hq⟩
  | program n => exact ⟨_, _, _, exec_program_start n hw hq⟩
  | unrecognisedWorker t p => exact ⟨s.crcacc, _, _, exec_unrecognisedWorker_start t p hq⟩
  | _ => cases hi

/-! ### Which instructions the two agents read -/

theorem isWorkerCommand_of_workerOp {c : Cfg} {t : Byte} {p : Param} {i : Instr} (h : workerOp c t p = some i) :
    isWorkerCommand i = true := by
  rcases workerOp_cases h with ⟨-, rfl⟩ | ⟨-, rfl⟩ | ⟨-, rfl⟩ | ⟨-, rfl⟩ | ⟨-, rfl⟩ | ⟨-, rfl⟩ | ⟨-, rfl⟩ |
    ⟨-, rfl⟩ | ⟨-, rfl⟩ | ⟨-, rfl⟩ | ⟨-, rfl⟩ | ⟨-, rfl⟩ <;> rfl

theorem isSequencerInstr_of_isWorkerCommand {i : Instr} (h : isWorkerCommand i = true) :
    isSequencerInstr i = true := by
  cases i <;> simp_all [isWorkerCommand, isSequencerInstr]

/-- The sequencer reads every latched command as one of its own instructions (R131, R187). -/
theorem isSequencerInstr_decodeWorker (c : Cfg) (w : Word) : isSequencerInstr (decodeWorker c w) = true := by
  unfold decodeWorker
  split
  · exact isSequencerInstr_of_isWorkerCommand (isWorkerCommand_of_workerOp ‹_›)
  · rfl

/-- The FSM reads a word as an instruction of its own, or in `Idle` as a worker command (R81, R82, R106). -/
theorem incomingInstr_cases (rx : Word) (s : State) :
    isSequencerInstr (incomingInstr rx s) = false ∨
      (s.state = .idle ∧ isWorkerCommand (incomingInstr rx s) = true) := by
  unfold incomingInstr
  cases hs : s.state with
  | idle =>
    simp only [decodeIncoming, decodeIdle]
    split
    · exact .inl rfl
    split
    · exact .inl rfl
    split
    · exact .inl rfl
    split
    · exact .inr ⟨trivial, isWorkerCommand_of_workerOp ‹_›⟩
    split <;> exact .inl rfl
  | _ => exact .inl rfl

/-! ### The FSM's meanings -/

theorem continues_uploadingEnd (s : State) : Continues s (uploadingEnd s) := by
  by_cases h : s.off < s.len
  · exact uploadingEnd_more h ▸ .next (Grows.refl s).silent
  · exact uploadingEnd_done h ▸ .next (Grows.refl s).silent

theorem continues_execDownload (count : Param) (s : State) : Continues s (execDownload count s) :=
  continues_loadBuf32 fun _ => .next (Grows.refl s).silent

theorem continues_execUploadingStep (data : Word) (s : State) : Continues s (execUploadingStep data s) := by
  unfold execUploadingStep
  split
  · exact continues_storeBuf32 fun _ => (continues_uploadingEnd _).of_grows (Grows.refl s).silent
  · exact continues_uploadingEnd s

theorem continues_execDownloadingStep (data : Word) (s : State) : Continues s (execDownloadingStep data s) := by
  unfold execDownloadingStep
  split
  · exact continues_loadBuf32 fun _ => .next (Grows.refl s).silent
  · exact .next (Grows.refl s).silent

/-- What the FSM executes by itself is never refused (R100, R102 to R105, R107 to R111). -/
theorem continues_exec_fsm {i : Instr} (s : State) (hi : isSequencerInstr i = false) : Continues s (exec i s) := by
  cases i with
  | nop => exact .next (Grows.refl s).silent
  | upload count => exact .next (Grows.refl s).silent
  | download count => exact continues_execDownload count s
  | read ignored => exact .next (Grows.refl s).silent
  | invalid word => exact .next (Grows.refl s).event
  | uploadingStep data => exact continues_execUploadingStep data s
  | downloadingStep data => exact continues_execDownloadingStep data s
  | readingStep data => exact .next (Grows.refl s).silent
  | workerBusyStep data => exact .next (Grows.refl s).silent
  | _ => cases hi

/-! ### The moves -/

/-- An exchange served by the FSM is never refused, in any state. -/
theorem continues_exchange (rx : Word) (s : State) :
    Continues s (exec (incomingInstr rx s) (takeExchange rx s)) := by
  refine Continues.of_grows (grows_takeExchange rx s) ?_
  obtain hi | ⟨hs, hi⟩ := incomingInstr_cases rx s
  · exact continues_exec_fsm _ hi
  · rw [exec_dispatch hi (by simp [hs])]
    exact continues_dispatchWorker _ _

/-- Whatever a step is, only the sequencer's turn could be refused. -/
theorem step_continues_or_turn (s : State) :
    Continues s (step s) ∨ ∃ rest, step s = sequencerTurn (s.withInputs rest) := by
  obtain ⟨rx, rest, -, -, h⟩ | ⟨rx, rest, i, -, -, h⟩ | ⟨rest, -, h⟩ | ⟨rest, -, h⟩ := step_cases s
  · exact .inl (h ▸ (continues_exchange rx (s.withInputs rest)).of_grows (Grows.refl s).silent)
  · exact .inl (h ▸ .fault i (Grows.refl s).silent)
  · exact .inr ⟨rest, h⟩
  · exact .inl (h ▸ .next (Grows.trans (Grows.refl s).silent (grows_resetEvent (s.withInputs rest))))

/-- A turn that starts an operation, or finds nothing to do, is never refused; the rest are micro-steps of a running
operation. -/
theorem sequencerTurn_continues_or_running (s : State) :
    Continues s (sequencerTurn s) ∨
      ∃ cmd pos l, s.state = .workerBusy ∧ s.seq = .running cmd pos l ∧
        sequencerTurn s = exec (decodeWorker s.cfg cmd) s := by
  obtain ⟨hw, -, h⟩ | ⟨-, h⟩ := sequencerTurn_cases s
  · cases hq : s.seq with
    | idle =>
      obtain ⟨acc, pos, l, hstart⟩ := exec_start (isSequencerInstr_decodeWorker s.cfg (latchedCommand s)) hw hq
      exact .inl (h.trans hstart ▸ .next (Grows.refl s).silent)
    | running cmd pos l =>
      refine .inr ⟨cmd, pos, l, hw, rfl, h.trans ?_⟩
      simp only [sequencerInstr, latchedCommand, hq]
  · exact .inl (h ▸ .next (Grows.refl s))

/-- Where `SEQ` stands at a position of its own command's operation, the turn is not refused. -/
theorem continues_sequencerTurn {s : State} (hs : seqInv s) : Continues s (sequencerTurn s) := by
  obtain h | ⟨cmd, pos, l, hw, hq, h⟩ := sequencerTurn_continues_or_running s
  · exact h
  · simp only [seqInv, hq] at hs
    obtain ⟨-, hop, -⟩ := hs
    rw [h, exec_at_operation hw hq hop]
    exact continues_microStepAt _ cmd pos l s

/-- Without the invariant the turn can also be refused, by completion. -/
theorem sequencerTurn_refused_or_continues (s : State) :
    (∃ e, sequencerTurn s = .refused e) ∨ Continues s (sequencerTurn s) := by
  obtain h | ⟨cmd, pos, l, hw, hq, h⟩ := sequencerTurn_continues_or_running s
  · exact .inr h
  · rw [h]
    obtain hm | hc := exec_running_cases (isSequencerInstr_decodeWorker s.cfg cmd) hw hq
    · exact .inr (hm ▸ continues_microStepAt _ cmd pos l s)
    · rw [hc]
      exact (completeOperation_refused_or_continues cmd pos l s).imp (fun h => ⟨_, h⟩) id

/-! ### The steps -/

theorem continues_step {s : State} (hs : seqInv s) : Continues s (step s) := by
  obtain h | ⟨rest, h⟩ := step_continues_or_turn s
  · exact h
  · have hturn : Continues (s.withInputs rest) (sequencerTurn (s.withInputs rest)) := continues_sequencerTurn hs
    exact h ▸ hturn.of_grows (Grows.refl s).silent

theorem step_refused_or_continues (s : State) : (∃ e, step s = .refused e) ∨ Continues s (step s) := by
  obtain h | ⟨rest, h⟩ := step_continues_or_turn s
  · exact .inr h
  · rw [h]
    exact (sequencerTurn_refused_or_continues (s.withInputs rest)).imp_right (·.of_grows (Grows.refl s).silent)

/-- What a step leaves has grown from the state before it. -/
theorem grows_stateAfter {s t : State} (h : stateAfter s = some t) : Grows s t := by
  obtain ⟨e, hr⟩ | hc := step_refused_or_continues s
  · simp [stateAfter, hr] at h
  · obtain hn | ⟨i, hf⟩ := stateAfter_eq_some.1 h
    · rw [hn] at hc
      cases hc with | next hg => exact hg
    · rw [hf] at hc
      cases hc with | fault _ hg => exact hg

/-- Settles O47: under the invariant the sequencer stands at a position of its own command's operation, and there every
meaning answers with a next state or a fault. -/
theorem noStepIsRefused : Obligations.NoStepIsRefused := by
  intro s hs e he
  exact not_continues_refused (he ▸ continues_step hs.seqInv)

/-- Settles O49. -/
theorem stepKeepsConfigurationAndHistory : Obligations.StepKeepsConfigurationAndHistory := by
  intro s t h
  obtain ⟨hcfg, ⟨new, hnew⟩, ⟨raised, hraised⟩⟩ := grows_stateAfter h
  exact ⟨hcfg, ⟨new, hnew.symm⟩, raised, hraised.symm⟩

end Sys2Proof.Proofs

/-! PROOFS of the family `10_state.md`: the invariant holds at reset and every step keeps it, who writes `STATE`, `WCR` and
the Buffer. All of them rest on two inversion lemmas, which say once what a move can do: `turnMove` for the sequencer's turn
and `fsmMove` for an exchange. -/

namespace Sys2Proof.Proofs

open Sys2Proof.Machine Sys2Proof.Laws

/-! ### The positions of the invariant -/

theorem byteLoopOk_iff {i n : Nat} : byteLoopOk i n = true ↔ i < n ∧ i ≤ bufBytes := by simp [byteLoopOk]

theorem programLoopOk_iff {c : Cfg} {p : ProgramPos} {l : SeqLocals} :
    programLoopOk c p l = true ↔ l.k < chunkCount c ∧ (p = .data → l.j < c.wbHalfwords) := by
  simp [programLoopOk, Decidable.imp_iff_not_or]

theorem saveReadOk_copy {n : Nat} {l : SeqLocals} :
    saveReadOk .copy n l = true ↔ (l.i < n ∧ l.i ≤ bufBytes) ∧ l.i + l.bytes.length = n := by
  simp [saveReadOk, byteLoopOk_iff]

theorem saveWriteOk_gather {n : Nat} {l : SeqLocals} :
    saveWriteOk .gather n l = true ↔ (l.i < n ∧ l.i ≤ bufBytes) ∧ l.bytes.length = l.i := by
  simp [saveWriteOk, byteLoopOk_iff]

theorem operationAt_crcByte {c : Cfg} {i : Instr} {l : SeqLocals} :
    operationAt c i .crcByte l = true ↔ i = .crc32 l.n ∧ l.i < byteLength l.n ∧ l.i ≤ bufBytes := by
  simp [operationAt, byteLoopOk_iff]

theorem operationAt_readSramByte {c : Cfg} {i : Instr} {l : SeqLocals} :
    operationAt c i .readSramByte l = true ↔ i = .readSram l.n ∧ l.i < byteLength l.n ∧ l.i ≤ bufBytes := by
  simp [operationAt, byteLoopOk_iff]

theorem operationAt_writeSramByte {c : Cfg} {i : Instr} {l : SeqLocals} :
    operationAt c i .writeSramByte l = true ↔ i = .writeSram l.n ∧ l.i < byteLength l.n ∧ l.i ≤ bufBytes := by
  simp [operationAt, byteLoopOk_iff]

theorem operationAt_readFlash {c : Cfg} {i : Instr} {q : SaveReadPos} {l : SeqLocals} :
    operationAt c i (.readFlash q) l = true ↔ i = .readFlash l.n ∧ saveReadOk q (byteLength l.n) l = true := by
  simp [operationAt]

theorem operationAt_writeFlash {c : Cfg} {i : Instr} {q : SaveWritePos} {l : SeqLocals} :
    operationAt c i (.writeFlash q) l = true ↔ i = .writeFlash l.n ∧ saveWriteOk q (byteLength l.n) l = true := by
  simp [operationAt]

theorem operationAt_readEeprom {c : Cfg} {i : Instr} {q : SaveReadPos} {l : SeqLocals} :
    operationAt c i (.readEeprom q) l = true ↔ i = .readEeprom l.n ∧ saveReadOk q (byteLength l.n) l = true := by
  simp [operationAt]

theorem operationAt_writeEeprom {c : Cfg} {i : Instr} {q : SaveWritePos} {l : SeqLocals} :
    operationAt c i (.writeEeprom q) l = true ↔ i = .writeEeprom l.n ∧ saveWriteOk q (byteLength l.n) l = true := by
  simp [operationAt]

theorem operationAt_program {c : Cfg} {i : Instr} {q : ProgramPos} {l : SeqLocals} :
    operationAt c i (.program q) l = true ↔
      (i = .program (romOffsetOf i) ∧ l.a = flashAddress c (romOffsetOf i)) ∧
        l.k < chunkCount c ∧ (q = .data → l.j < c.wbHalfwords) := by
  simp [operationAt, programLoopOk_iff]

theorem operationAt_dumpHalfword {c : Cfg} {i : Instr} {l : SeqLocals} :
    operationAt c i .dumpHalfword l = true ↔
      (i = .dump (romOffsetOf i) ∧ l.a = flashAddress c (romOffsetOf i)) ∧ l.j < bufHalfwords := by
  simp [operationAt]

/-- The flash commands without a loop: the position is not bounded further (R152, R154, R155). -/
theorem operationAt_id {c : Cfg} {i : Instr} {q : IdPos} {l : SeqLocals} :
    operationAt c i (.id q) l = true ↔ i = .id (romOffsetOf i) ∧ l.a = flashAddress c (romOffsetOf i) := by
  simp [operationAt]

theorem operationAt_unlock {c : Cfg} {i : Instr} {q : LockPos} {l : SeqLocals} :
    operationAt c i (.unlock q) l = true ↔ i = .unlock (romOffsetOf i) ∧ l.a = flashAddress c (romOffsetOf i) := by
  simp [operationAt]

theorem operationAt_erase {c : Cfg} {i : Instr} {q : LockPos} {l : SeqLocals} :
    operationAt c i (.erase q) l = true ↔ i = .erase (romOffsetOf i) ∧ l.a = flashAddress c (romOffsetOf i) := by
  simp [operationAt]

/-- Only the sequencer's instructions have positions. -/
theorem isSequencerInstr_of_operationAt {c : Cfg} {i : Instr} {pos : SeqPos} {l : SeqLocals}
    (h : operationAt c i pos l = true) : isSequencerInstr i = true := by
  cases pos with
  | crcByte => rw [(operationAt_crcByte.1 h).1]; rfl
  | id q => rw [(operationAt_id.1 h).1]; rfl
  | unlock q => rw [(operationAt_unlock.1 h).1]; rfl
  | erase q => rw [(operationAt_erase.1 h).1]; rfl
  | program q => rw [(operationAt_program.1 h).1.1]; rfl
  | dumpHalfword => rw [(operationAt_dumpHalfword.1 h).1.1]; rfl
  | readSramByte => rw [(operationAt_readSramByte.1 h).1]; rfl
  | writeSramByte => rw [(operationAt_writeSramByte.1 h).1]; rfl
  | readFlash q => rw [(operationAt_readFlash.1 h).1]; rfl
  | writeFlash q => rw [(operationAt_writeFlash.1 h).1]; rfl
  | readEeprom q => rw [(operationAt_readEeprom.1 h).1]; rfl
  | writeEeprom q => rw [(operationAt_writeEeprom.1 h).1]; rfl
  | logUnrecognised => exact ((Bool.and_eq_true _ _).mp h).1
  | writeResult => exact isSequencerInstr_of_hasResult h
  | release => exact h

/-! ### What a micro-step can do

The judgement `MicroMove` is over every state and every position, so that it also serves the statements without the
invariant. What needs the invariant stands in it as the premise of `Leads` and `FaultsAtEnd`. -/

/-- `u` has the control state of `s`: a micro-step in between has moved data only, and kept the Buffer canonical (log 7). -/
structure KeepsControl (s u : State) : Prop where
  state : u.state = s.state := by rfl
  len : u.len = s.len := by rfl
  off : u.off = s.off := by rfl
  wcr : u.wcr = s.wcr := by rfl
  seq : u.seq = s.seq := by rfl
  cfg : u.cfg = s.cfg := by rfl
  fsmFault : u.fsmFault = s.fsmFault := by rfl
  seqFault : u.seqFault = s.seqFault := by rfl
  bufWf : Memory.wf s.buf = true → Memory.wf u.buf = true := by exact id

theorem keepsControl_refl (s : State) : KeepsControl s s := {}

theorem keepsControl_cartRead16 (a : Word) (s : State) : KeepsControl s (cartRead16 a s) := {}

theorem keepsControl_cartRead8 (a : Word) (s : State) : KeepsControl s (cartRead8 a s) := {}

theorem keepsControl_cartWrite16 (a : Word) (v : Halfword) (s : State) : KeepsControl s (cartWrite16 a v s) := {}

theorem keepsControl_cartWrite8 (a : Word) (v : Byte) (s : State) : KeepsControl s (cartWrite8 a v s) := {}

theorem keepsControl_setAcc (w : Word) (s : State) : KeepsControl s (s.setAcc w) := {}

theorem KeepsControl.record {s u : State} (h : KeepsControl s u) (e : Event) : KeepsControl s (u.record e) := { h with }

theorem keepsControl_askSaveRead (s : State) : KeepsControl s (askSaveRead s) := {}

theorem keepsControl_askSaveWrite (s : State) : KeepsControl s (askSaveWrite s) := {}

theorem KeepsControl.setBuf8 {s u : State} {i : Nat} (h : KeepsControl s u) (v : Byte) (hi : i < bufBytes) :
    KeepsControl s (u.setBuf (Machine.setBuf8 u.buf i v)) :=
  { h with bufWf := fun hs => wf_setBuf8 v (h.bufWf hs) hi }

theorem KeepsControl.setBuf16 {s u : State} {i : Nat} (h : KeepsControl s u) (v : Halfword) (hi : i < bufHalfwords) :
    KeepsControl s (u.setBuf (Machine.setBuf16 u.buf i v)) :=
  { h with bufWf := fun hs => wf_setBuf16 v (h.bufWf hs) hi }

/-- The answer of a micro-step of `cmd`: it goes to a position that meets `ok`, or it faults at an index that meets `past`.
Beside that it has moved data only. -/
inductive MicroMove (s : State) (cmd : Word) (ok : SeqPos → SeqLocals → Prop) (past : Nat → Prop) : Result → Prop
  | next {u : State} {pos : SeqPos} {l : SeqLocals} (hu : KeepsControl s u) (hok : ok pos l) :
      MicroMove s cmd ok past (.next (u.toPos cmd pos l))
  | fault {u : State} {i : Nat} (hu : KeepsControl s u) (hi : past i) :
      MicroMove s cmd ok past (.fault (.bufferRange i (u.stopSeq i)))

/-- Under a valid configuration, from a position of `i` the sequencer comes to a position of `i`. -/
def Leads (c : Cfg) (i : Instr) (pos : SeqPos) (l : SeqLocals) (pos' : SeqPos) (l' : SeqLocals) : Prop :=
  c.valid = true → operationAt c i pos l = true → operationAt c i pos' l' = true

/-- Under a valid configuration, from a position of `i` an access past the Buffer is at the first index past it, and the
length of `i` reaches there (R227). -/
def FaultsAtEnd (c : Cfg) (i : Instr) (pos : SeqPos) (l : SeqLocals) (index : Nat) : Prop :=
  c.valid = true → operationAt c i pos l = true → index = bufBytes ∧ bufBytes < byteLengthOf i

/-- `release` stands at the end of every operation (R132). -/
theorem leads_release {c : Cfg} {i : Instr} {pos : SeqPos} {l l' : SeqLocals} : Leads c i pos l .release l' :=
  fun _ h => isSequencerInstr_of_operationAt h

/-- The answer of a micro-step of `i` from a position. -/
abbrev MicroMoveOf (i : Instr) (cmd : Word) (pos : SeqPos) (l : SeqLocals) (s : State) : Result → Prop :=
  MicroMove s cmd (Leads s.cfg i pos l) (FaultsAtEnd s.cfg i pos l)

/-! ### The shared operations of a micro-step -/

section Shared

variable {s u : State} {cmd : Word} {ok : SeqPos → SeqLocals → Prop} {past : Nat → Prop}

theorem microMove_loadBuf8 {i : Nat} {k : Byte → Result} (hin : i < bufBytes → ∀ b, MicroMove s cmd ok past (k b))
    (hout : ¬ i < bufBytes → past i) : MicroMove s cmd ok past (loadBuf8 i s k) := by
  by_cases h : i < bufBytes
  · exact loadBuf8_inside s k h ▸ hin h _
  · exact loadBuf8_outside s k h ▸ .fault (keepsControl_refl s) (hout h)

theorem microMove_loadBuf16 {i : Nat} {k : Halfword → Result}
    (hin : i < bufHalfwords → ∀ v, MicroMove s cmd ok past (k v)) (hout : ¬ i < bufHalfwords → past i) :
    MicroMove s cmd ok past (loadBuf16 i s k) := by
  by_cases h : i < bufHalfwords
  · exact loadBuf16_inside s k h ▸ hin h _
  · exact loadBuf16_outside s k h ▸ .fault (keepsControl_refl s) (hout h)

theorem microMove_storeBuf8 {i : Nat} {v : Byte} {k : State → Result} (hu : KeepsControl s u)
    (hin : i < bufBytes → ∀ u', KeepsControl s u' → MicroMove s cmd ok past (k u')) (hout : ¬ i < bufBytes → past i) :
    MicroMove s cmd ok past (storeBuf8 i v u k) := by
  by_cases h : i < bufBytes
  · exact storeBuf8_inside v u k h ▸ hin h _ (hu.setBuf8 v h)
  · exact storeBuf8_outside v u k h ▸ .fault hu (hout h)

theorem microMove_storeBuf16 {i : Nat} {v : Halfword} {k : State → Result} (hu : KeepsControl s u)
    (hin : i < bufHalfwords → ∀ u', KeepsControl s u' → MicroMove s cmd ok past (k u'))
    (hout : ¬ i < bufHalfwords → past i) : MicroMove s cmd ok past (storeBuf16 i v u k) := by
  by_cases h : i < bufHalfwords
  · exact storeBuf16_inside v u k h ▸ hin h _ (hu.setBuf16 v h)
  · exact storeBuf16_outside v u k h ▸ .fault hu (hout h)

/-- The result waits for its write (R132). -/
theorem MicroMove.result {l : SeqLocals} {r : Word} (hu : KeepsControl s u)
    (hok : ok .writeResult { l with result := r }) : MicroMove s cmd ok past (.next (u.toResult cmd r l)) :=
  .next hu hok

/-- A poll waits where it is, or goes on; both with the status read (R151). -/
theorem microMove_pollStatus {a : Word} {pos : SeqPos} {l : SeqLocals} {k : SeqLocals → State → Result}
    (hstay : ∀ v, ok pos { l with status := v })
    (hk : ∀ v, MicroMove s cmd ok past (k { l with status := v } (cartRead16 a s))) :
    MicroMove s cmd ok past (pollStatus a cmd pos l s k) := by
  cases h : statusReady s.cfg (cartValue16 a s) with
  | true => exact pollStatus_ready k h ▸ hk _
  | false => exact pollStatus_busy k h ▸ .next (keepsControl_cartRead16 a s) (hstay _)

/-- The poll that ends UNLOCK and ERASE: the status that ends it is the result (R154, R155). -/
theorem microMove_statusPoll {pos : SeqPos} {l : SeqLocals} (hstay : ∀ v, ok pos { l with status := v })
    (hres : ∀ l', ok .writeResult l') : MicroMove s cmd ok past (statusPoll pos cmd l s) :=
  microMove_pollStatus hstay fun _ => .result (keepsControl_cartRead16 _ s) (hres _)

theorem microMove_afterSave {o : SaveOutcome} {l : SeqLocals} (hu : KeepsControl s u) (hrel : ∀ l', ok .release l')
    (hres : ∀ l', ok .writeResult l') : MicroMove s cmd ok past (.next (afterSave o cmd l u)) := by
  cases o with
  | ok => exact .next hu (hrel _)
  | error status => exact .result hu (hres _)

theorem microMove_saveReadTransfer {kind : SaveKind} {stay copy : SeqPos} {l : SeqLocals} (hstay : ok stay l)
    (hcopy : ∀ bytes o, bytes.length = byteLength l.n → byteLength l.n ≠ 0 →
      ok copy { l with bytes := bytes, outcome := o })
    (hrel : ∀ l', ok .release l') (hres : ∀ l', ok .writeResult l') :
    MicroMove s cmd ok past (saveReadTransfer kind stay copy cmd l s) := by
  obtain ⟨-, hr⟩ | ⟨ans, l', s', -, rfl, rfl, hr⟩ := saveReadTransfer_cases kind stay copy cmd l s <;> rw [hr]
  · exact .next (keepsControl_askSaveRead s) hstay
  · have hs' := (keepsControl_askSaveRead s).record (.saveRd kind l.n (saveReadBytes l.n ans s) ans.outcome)
    split
    · exact microMove_afterSave hs' hrel hres
    · exact .next hs' (hcopy _ _ (length_saveReadBytes l.n ans s) ‹_›)

theorem microMove_saveReadCopy {copy : SeqPos} {l : SeqLocals}
    (hcopy : ∀ b rest, l.bytes = b :: rest → rest ≠ [] → l.i < bufBytes →
      ok copy { l with bytes := rest, i := l.i + 1 })
    (hout : ¬ l.i < bufBytes → past l.i) (hrel : ∀ l', ok .release l') (hres : ∀ l', ok .writeResult l') :
    MicroMove s cmd ok past (saveReadCopy copy cmd l s) := by
  obtain ⟨-, hr⟩ | ⟨b, rest, l', s', hb, hi, rfl, rfl, hr⟩ | ⟨-, hi, hr⟩ := saveReadCopy_cases copy cmd l s <;> rw [hr]
  · exact microMove_afterSave (keepsControl_refl s) hrel hres
  · have hs' := (keepsControl_refl s).setBuf8 b hi
    split
    · exact microMove_afterSave hs' hrel hres
    · exact .next hs' (hcopy b rest hb ‹_› hi)
  · exact .fault (keepsControl_refl s) (hout hi)

theorem microMove_saveWriteGather {gather transfer : SeqPos} {l : SeqLocals}
    (hmore : ∀ b, l.i < bufBytes → l.i + 1 < byteLength l.n → ok gather { l with bytes := l.bytes ++ [b], i := l.i + 1 })
    (hdone : ∀ b, l.i < bufBytes → ¬ l.i + 1 < byteLength l.n →
      ok transfer { l with bytes := l.bytes ++ [b], i := l.i + 1 })
    (hout : ¬ l.i < bufBytes → past l.i) : MicroMove s cmd ok past (saveWriteGather gather transfer cmd l s) := by
  refine microMove_loadBuf8 (fun hi b => .next (keepsControl_refl s) ?_) hout
  split
  · exact hmore b hi ‹_›
  · exact hdone b hi ‹_›

theorem microMove_saveWriteTransfer {kind : SaveKind} {stay : SeqPos} {l : SeqLocals} (hstay : ok stay l)
    (hrel : ∀ l', ok .release l') (hres : ∀ l', ok .writeResult l') :
    MicroMove s cmd ok past (saveWriteTransfer kind stay cmd l s) := by
  obtain ⟨-, hr⟩ | ⟨o, -, hr⟩ := saveWriteTransfer_cases kind stay cmd l s <;> rw [hr]
  · exact .next (keepsControl_askSaveWrite s) hstay
  · exact microMove_afterSave ((keepsControl_askSaveWrite s).record _) hrel hres

end Shared

/-! ### The byte loops of CRC32, READ_SRAM and WRITE_SRAM -/

/-- `pos` is the position of the byte loop of the instructions `mk n`, and `i` may stand there. -/
def LoopsAt (c : Cfg) (i : Instr) (mk : Param → Instr) (pos : SeqPos) : Prop :=
  ∀ l, operationAt c i pos l = true ↔ i = mk l.n ∧ l.i < byteLength l.n ∧ l.i ≤ bufBytes

theorem leads_byteLoop {c : Cfg} {i : Instr} {mk : Param → Instr} {pos : SeqPos} {l : SeqLocals}
    (hloop : LoopsAt c i mk pos) (hin : l.i < bufBytes) (hmore : l.i + 1 < byteLength l.n) :
    Leads c i pos l pos { l with i := l.i + 1 } := by
  intro _ hop
  obtain ⟨hi, -⟩ := (hloop l).1 hop
  exact (hloop _).2 ⟨hi, hmore, hin⟩

theorem leads_bytePos {c : Cfg} {i : Instr} {mk : Param → Instr} {pos : SeqPos} {l : SeqLocals}
    (hloop : LoopsAt c i mk pos) (hin : l.i < bufBytes) :
    Leads c i pos l (bytePos (l.i + 1) (byteLength l.n) pos .release) { l with i := l.i + 1 } := by
  unfold bytePos
  split
  · exact leads_byteLoop hloop hin ‹_›
  · exact leads_release

/-- An index of a byte loop that is not in the Buffer is the first one past it, and below the length. -/
theorem end_of_byteLoop {index n : Nat} (hlt : index < n) (hle : index ≤ bufBytes) (hout : ¬ index < bufBytes) :
    index = bufBytes ∧ bufBytes < n := by omega

theorem faultsAtEnd_byteLoop {c : Cfg} {i : Instr} {mk : Param → Instr} {pos : SeqPos} {l : SeqLocals}
    (hloop : LoopsAt c i mk pos) (hlen : ∀ n, byteLengthOf (mk n) = byteLength n) (hout : ¬ l.i < bufBytes) :
    FaultsAtEnd c i pos l l.i := by
  intro _ hop
  obtain ⟨hi, hlt, hle⟩ := (hloop l).1 hop
  rw [hi, hlen]
  exact end_of_byteLoop hlt hle hout

/-! ### The positions of a save transaction, the same for the save flash and the EEPROM -/

theorem saveReadOk_copy_of_transfer {n : Nat} {l : SeqLocals} {bytes : List Byte} {o : SaveOutcome}
    (h : saveReadOk .transfer n l = true) (hb : bytes.length = n) (hn : n ≠ 0) :
    saveReadOk .copy n { l with bytes := bytes, outcome := o } = true := by
  have hi : l.i = 0 := of_decide_eq_true h
  simp only [saveReadOk_copy]
  omega

theorem saveReadOk_copy_next {n : Nat} {l : SeqLocals} {b : Byte} {rest : List Byte}
    (h : saveReadOk .copy n l = true) (hb : l.bytes = b :: rest) (hrest : rest ≠ []) (hi : l.i < bufBytes) :
    saveReadOk .copy n { l with bytes := rest, i := l.i + 1 } = true := by
  have hpos := List.length_pos_iff.2 hrest
  simp only [saveReadOk_copy, hb, List.length_cons] at h ⊢
  omega

theorem saveWriteOk_gather_next {n : Nat} {l : SeqLocals} (b : Byte) (h : saveWriteOk .gather n l = true)
    (hi : l.i < bufBytes) (hmore : l.i + 1 < n) :
    saveWriteOk .gather n { l with bytes := l.bytes ++ [b], i := l.i + 1 } = true := by
  simp only [saveWriteOk_gather, List.length_append, List.length_singleton] at h ⊢
  omega

theorem saveWriteOk_transfer_of_gather {n : Nat} {l : SeqLocals} (b : Byte) (h : saveWriteOk .gather n l = true)
    (hdone : ¬ l.i + 1 < n) : saveWriteOk .transfer n { l with bytes := l.bytes ++ [b], i := l.i + 1 } = true := by
  simp only [saveWriteOk_gather] at h
  simp only [saveWriteOk, List.length_append, List.length_singleton, decide_eq_true_eq]
  omega

/-- `pos` are the positions of the save reads `mk n`, and `i` may stand there. -/
def SaveReadsAt (c : Cfg) (i : Instr) (mk : Param → Instr) (pos : SaveReadPos → SeqPos) : Prop :=
  ∀ p l, operationAt c i (pos p) l = true ↔ i = mk l.n ∧ saveReadOk p (byteLength l.n) l = true

/-- `pos` are the positions of the save writes `mk n`, and `i` may stand there. -/
def SaveWritesAt (c : Cfg) (i : Instr) (mk : Param → Instr) (pos : SaveWritePos → SeqPos) : Prop :=
  ∀ p l, operationAt c i (pos p) l = true ↔ i = mk l.n ∧ saveWriteOk p (byteLength l.n) l = true

section Save

variable {i : Instr} {mk : Param → Instr} {cmd : Word} {l : SeqLocals} {s : State} {kind : SaveKind}

theorem microMove_saveRead_transfer {pos : SaveReadPos → SeqPos} (hread : SaveReadsAt s.cfg i mk pos)
    (hres : ∀ n, hasResult (mk n) = true) :
    MicroMoveOf i cmd (pos .transfer) l s (saveReadTransfer kind (pos .transfer) (pos .copy) cmd l s) := by
  refine microMove_saveReadTransfer (fun _ hop => hop) (fun bytes o hb hn _ hop => ?_) (fun _ => leads_release)
    fun _ _ hop => ((hread _ _).1 hop).1 ▸ hres _
  obtain ⟨hi, hok⟩ := (hread _ _).1 hop
  exact (hread _ _).2 ⟨hi, saveReadOk_copy_of_transfer hok hb hn⟩

theorem microMove_saveRead_copy {pos : SaveReadPos → SeqPos} (hread : SaveReadsAt s.cfg i mk pos)
    (hres : ∀ n, hasResult (mk n) = true) (hlen : ∀ n, byteLengthOf (mk n) = byteLength n) :
    MicroMoveOf i cmd (pos .copy) l s (saveReadCopy (pos .copy) cmd l s) := by
  refine microMove_saveReadCopy (fun b rest hb hrest hin _ hop => ?_) (fun hout _ hop => ?_) (fun _ => leads_release)
    fun _ _ hop => ((hread _ _).1 hop).1 ▸ hres _
  all_goals obtain ⟨hi, hok⟩ := (hread _ _).1 hop
  · exact (hread _ _).2 ⟨hi, saveReadOk_copy_next hok hb hrest hin⟩
  · obtain ⟨⟨hlt, hle⟩, -⟩ := saveReadOk_copy.1 hok
    rw [hi, hlen]
    exact end_of_byteLoop hlt hle hout

theorem microMove_saveWrite_gather {pos : SaveWritePos → SeqPos} (hwrite : SaveWritesAt s.cfg i mk pos)
    (hlen : ∀ n, byteLengthOf (mk n) = byteLength n) :
    MicroMoveOf i cmd (pos .gather) l s (saveWriteGather (pos .gather) (pos .transfer) cmd l s) := by
  refine microMove_saveWriteGather (fun b hin hmore _ hop => ?_) (fun b _ hdone _ hop => ?_) fun hout _ hop => ?_
  all_goals obtain ⟨hi, hok⟩ := (hwrite _ _).1 hop
  · exact (hwrite _ _).2 ⟨hi, saveWriteOk_gather_next b hok hin hmore⟩
  · exact (hwrite _ _).2 ⟨hi, saveWriteOk_transfer_of_gather b hok hdone⟩
  · obtain ⟨⟨hlt, hle⟩, -⟩ := saveWriteOk_gather.1 hok
    rw [hi, hlen]
    exact end_of_byteLoop hlt hle hout

theorem microMove_saveWrite_transfer {pos : SaveWritePos → SeqPos} (hwrite : SaveWritesAt s.cfg i mk pos)
    (hres : ∀ n, hasResult (mk n) = true) :
    MicroMoveOf i cmd (pos .transfer) l s (saveWriteTransfer kind (pos .transfer) cmd l s) :=
  microMove_saveWriteTransfer (fun _ hop => hop) (fun _ => leads_release)
    fun _ _ hop => ((hwrite _ _).1 hop).1 ▸ hres _

end Save

/-! ### The micro-steps -/

theorem microMove_crcMicroStep (i : Instr) (cmd : Word) (l : SeqLocals) (s : State) :
    MicroMoveOf i cmd .crcByte l s (crcMicroStep cmd l s) := by
  have hloop : LoopsAt s.cfg i .crc32 .crcByte := fun _ => operationAt_crcByte
  refine microMove_loadBuf8 (fun hin b => ?_) (faultsAtEnd_byteLoop hloop fun _ => rfl)
  unfold crcContinue
  split
  · exact .next (keepsControl_setAcc _ s) (leads_byteLoop hloop hin ‹_›)
  · refine .result (keepsControl_setAcc _ s) fun _ hop => ?_
    rw [(operationAt_crcByte.1 hop).1]; rfl

theorem microMove_idMicroStep (i : Instr) (cmd : Word) (p : IdPos) (l : SeqLocals) (s : State) :
    MicroMoveOf i cmd (.id p) l s (idMicroStep p cmd l s) := by
  cases p with
  | command => exact .next (keepsControl_cartWrite16 _ _ s) fun _ hop => hop
  | manufacturer => exact .next (keepsControl_cartRead16 _ s) fun _ hop => hop
  | device =>
    refine .result ?_ fun _ hop => by rw [(operationAt_id.1 hop).1]; rfl
    split
    · exact (keepsControl_cartRead16 _ s).record _
    · exact keepsControl_cartRead16 _ s

theorem microMove_unlockMicroStep (i : Instr) (cmd : Word) (p : LockPos) (l : SeqLocals) (s : State) :
    MicroMoveOf i cmd (.unlock p) l s (unlockMicroStep p cmd l s) := by
  cases p with
  | setup => exact .next (keepsControl_cartWrite16 _ _ s) fun _ hop => hop
  | confirm => exact .next (keepsControl_cartWrite16 _ _ s) fun _ hop => hop
  | poll =>
    refine microMove_statusPoll (fun _ _ hop => hop) fun _ _ hop => ?_
    rw [(operationAt_unlock.1 hop).1]; rfl

theorem microMove_eraseMicroStep (i : Instr) (cmd : Word) (p : LockPos) (l : SeqLocals) (s : State) :
    MicroMoveOf i cmd (.erase p) l s (eraseMicroStep p cmd l s) := by
  cases p with
  | setup => exact .next (keepsControl_cartWrite16 _ _ s) fun _ hop => hop
  | confirm => exact .next (keepsControl_cartWrite16 _ _ s) fun _ hop => hop
  | poll =>
    refine microMove_statusPoll (fun _ _ hop => hop) fun _ _ hop => ?_
    rw [(operationAt_erase.1 hop).1]; rfl

/-- A data word of a chunk of the block lies in the Buffer: PROGRAM cannot fault (R157, R227). -/
theorem chunk_halfword_lt {c : Cfg} {k j : Nat} (hk : k < chunkCount c) (hj : j < c.wbHalfwords) :
    k * c.wbHalfwords + j < bufHalfwords :=
  calc k * c.wbHalfwords + j < k * c.wbHalfwords + c.wbHalfwords := by omega
    _ = (k + 1) * c.wbHalfwords := (Nat.succ_mul ..).symm
    _ ≤ chunkCount c * c.wbHalfwords := Nat.mul_le_mul_right _ hk
    _ ≤ bufHalfwords := Nat.div_mul_le_self ..

theorem chunkCount_pos {c : Cfg} (hc : c.valid = true) : 0 < chunkCount c := by
  obtain ⟨h1, h2, -⟩ := chunk_size hc
  exact Nat.div_pos h2 h1

theorem microMove_programNext {i : Instr} {cmd : Word} {v : Halfword} {l : SeqLocals} {s u : State}
    (hu : KeepsControl s u) :
    MicroMoveOf i cmd (.program .verdict) l s (programNext cmd { l with status := v } u) := by
  unfold programNext
  split
  · refine .result hu fun _ hop => ?_
    rw [(operationAt_program.1 hop).1.1]; rfl
  · rename_i hmore
    rw [hu.cfg, not_or] at hmore
    refine .next hu fun _ hop => ?_
    obtain ⟨hi, -⟩ := operationAt_program.1 hop
    exact operationAt_program.2 ⟨hi, Nat.lt_of_not_le hmore.2, nofun⟩

theorem microMove_programMicroStep (i : Instr) (cmd : Word) (p : ProgramPos) (l : SeqLocals) (s : State) :
    MicroMoveOf i cmd (.program p) l s (programMicroStep p cmd l s) := by
  cases p with
  | ready =>
    rw [programMicroStep]
    exact microMove_pollStatus (fun _ _ hop => hop) fun _ => .next (keepsControl_cartRead16 _ s) fun _ hop => hop
  | command => exact .next (keepsControl_cartWrite16 _ _ s) fun _ hop => hop
  | count =>
    refine .next (keepsControl_cartWrite16 _ _ s) fun hc hop => ?_
    obtain ⟨hi, hk, -⟩ := operationAt_program.1 hop
    obtain ⟨hw, -⟩ := chunk_size hc
    exact operationAt_program.2 ⟨hi, hk, fun _ => hw⟩
  | data =>
    refine microMove_loadBuf16 (fun _ v => .next (keepsControl_cartWrite16 _ _ s) fun _ hop => ?_) fun hout _ hop => ?_
    · obtain ⟨hi, hk, -⟩ := operationAt_program.1 hop
      refine operationAt_program.2 ⟨hi, hk, fun hdata => ?_⟩
      by_contra hj
      rw [if_neg hj] at hdata
      cases hdata
    · obtain ⟨-, hk, hj⟩ := operationAt_program.1 hop
      exact absurd (chunk_halfword_lt hk (hj rfl)) hout
  | confirm => exact .next (keepsControl_cartWrite16 _ _ s) fun _ hop => hop
  | verdict =>
    exact microMove_pollStatus (fun _ _ hop => hop) fun _ => microMove_programNext (keepsControl_cartRead16 _ s)

theorem microMove_dumpMicroStep (i : Instr) (cmd : Word) (l : SeqLocals) (s : State) :
    MicroMoveOf i cmd .dumpHalfword l s (dumpMicroStep cmd l s) := by
  refine microMove_storeBuf16 (keepsControl_cartRead16 _ s) (fun _ u hu => .next hu ?_) fun hout _ hop => ?_
  · split
    · intro _ hop
      obtain ⟨hi, -⟩ := operationAt_dumpHalfword.1 hop
      exact operationAt_dumpHalfword.2 ⟨hi, ‹_›⟩
    · exact leads_release
  · obtain ⟨-, hj⟩ := operationAt_dumpHalfword.1 hop
    exact absurd hj hout

theorem microMove_readSramMicroStep (i : Instr) (cmd : Word) (l : SeqLocals) (s : State) :
    MicroMoveOf i cmd .readSramByte l s (readSramMicroStep cmd l s) := by
  have hloop : LoopsAt s.cfg i .readSram .readSramByte := fun _ => operationAt_readSramByte
  exact microMove_storeBuf8 (keepsControl_cartRead8 _ s) (fun hin u hu => .next hu (leads_bytePos hloop hin))
    (faultsAtEnd_byteLoop hloop fun _ => rfl)

theorem microMove_writeSramMicroStep (i : Instr) (cmd : Word) (l : SeqLocals) (s : State) :
    MicroMoveOf i cmd .writeSramByte l s (writeSramMicroStep cmd l s) := by
  have hloop : LoopsAt s.cfg i .writeSram .writeSramByte := fun _ => operationAt_writeSramByte
  exact microMove_loadBuf8 (fun hin b => .next (keepsControl_cartWrite8 _ _ s) (leads_bytePos hloop hin))
    (faultsAtEnd_byteLoop hloop fun _ => rfl)

theorem microMove_readFlashMicroStep (i : Instr) (cmd : Word) (p : SaveReadPos) (l : SeqLocals) (s : State) :
    MicroMoveOf i cmd (.readFlash p) l s (readFlashMicroStep p cmd l s) := by
  have hread : SaveReadsAt s.cfg i .readFlash .readFlash := fun _ _ => operationAt_readFlash
  cases p with
  | transfer => exact microMove_saveRead_transfer hread fun _ => rfl
  | copy => exact microMove_saveRead_copy hread (fun _ => rfl) fun _ => rfl

theorem microMove_readEepromMicroStep (i : Instr) (cmd : Word) (p : SaveReadPos) (l : SeqLocals) (s : State) :
    MicroMoveOf i cmd (.readEeprom p) l s (readEepromMicroStep p cmd l s) := by
  have hread : SaveReadsAt s.cfg i .readEeprom .readEeprom := fun _ _ => operationAt_readEeprom
  cases p with
  | transfer => exact microMove_saveRead_transfer hread fun _ => rfl
  | copy => exact microMove_saveRead_copy hread (fun _ => rfl) fun _ => rfl

theorem microMove_writeFlashMicroStep (i : Instr) (cmd : Word) (p : SaveWritePos) (l : SeqLocals) (s : State) :
    MicroMoveOf i cmd (.writeFlash p) l s (writeFlashMicroStep p cmd l s) := by
  have hwrite : SaveWritesAt s.cfg i .writeFlash .writeFlash := fun _ _ => operationAt_writeFlash
  cases p with
  | gather => exact microMove_saveWrite_gather hwrite fun _ => rfl
  | transfer => exact microMove_saveWrite_transfer hwrite fun _ => rfl

theorem microMove_writeEepromMicroStep (i : Instr) (cmd : Word) (p : SaveWritePos) (l : SeqLocals) (s : State) :
    MicroMoveOf i cmd (.writeEeprom p) l s (writeEepromMicroStep p cmd l s) := by
  have hwrite : SaveWritesAt s.cfg i .writeEeprom .writeEeprom := fun _ _ => operationAt_writeEeprom
  cases p with
  | gather => exact microMove_saveWrite_gather hwrite fun _ => rfl
  | transfer => exact microMove_saveWrite_transfer hwrite fun _ => rfl

/-- Before completion, whatever the position, a micro-step moves data and its own position, or faults. -/
theorem microMove_microStepAt (i : Instr) (cmd : Word) (pos : SeqPos) (l : SeqLocals) (s : State)
    (hres : pos ≠ .writeResult) (hrel : pos ≠ .release) : MicroMoveOf i cmd pos l s (microStepAt i cmd pos l s) := by
  cases pos with
  | crcByte => exact microMove_crcMicroStep i cmd l s
  | id p => exact microMove_idMicroStep i cmd p l s
  | unlock p => exact microMove_unlockMicroStep i cmd p l s
  | erase p => exact microMove_eraseMicroStep i cmd p l s
  | program p => exact microMove_programMicroStep i cmd p l s
  | dumpHalfword => exact microMove_dumpMicroStep i cmd l s
  | readSramByte => exact microMove_readSramMicroStep i cmd l s
  | writeSramByte => exact microMove_writeSramMicroStep i cmd l s
  | readFlash p => exact microMove_readFlashMicroStep i cmd p l s
  | writeFlash p => exact microMove_writeFlashMicroStep i cmd p l s
  | readEeprom p => exact microMove_readEepromMicroStep i cmd p l s
  | writeEeprom p => exact microMove_writeEepromMicroStep i cmd p l s
  | logUnrecognised => exact .next ((keepsControl_refl s).record _) leads_release
  | writeResult => exact absurd rfl hres
  | release => exact absurd rfl hrel

/-! ### What a turn of the sequencer can do -/

/-- An operation starts at a position of its own (R131), with its loop indexes at 0. -/
theorem exec_start_at_operation {i : Instr} {s : State} (hi : isSequencerInstr i = true) (hw : s.state = .workerBusy)
    (hq : s.seq = .idle) :
    ∃ acc pos l, exec i s = .next ((s.setAcc acc).toPos s.wcr pos l) ∧
      (s.cfg.valid = true → operationAt s.cfg i pos l = true) := by
  cases i with
  | crc32 n =>
    rw [exec_crc32_start n hw hq, crcContinue]
    split
    · exact ⟨_, _, _, rfl, fun _ => operationAt_crcByte.2 ⟨rfl, ‹_›, Nat.zero_le _⟩⟩
    · exact ⟨_, _, _, rfl, fun _ => rfl⟩
  | readSram n =>
    refine ⟨_, _, _, exec_readSram_start n hw hq, fun _ => ?_⟩
    unfold bytePos
    split
    · exact operationAt_readSramByte.2 ⟨rfl, ‹_›, Nat.zero_le _⟩
    · rfl
  | writeSram n =>
    refine ⟨_, _, _, exec_writeSram_start n hw hq, fun _ => ?_⟩
    unfold bytePos
    split
    · exact operationAt_writeSramByte.2 ⟨rfl, ‹_›, Nat.zero_le _⟩
    · rfl
  | readFlash n => exact ⟨_, _, _, exec_readFlash_start n hw hq, fun _ => operationAt_readFlash.2 ⟨rfl, rfl⟩⟩
  | readEeprom n => exact ⟨_, _, _, exec_readEeprom_start n hw hq, fun _ => operationAt_readEeprom.2 ⟨rfl, rfl⟩⟩
  | writeFlash n =>
    refine ⟨_, _, _, exec_writeFlash_start n hw hq, fun _ => ?_⟩
    unfold bytePos
    split
    · exact operationAt_writeFlash.2 ⟨rfl, saveWriteOk_gather.2 ⟨⟨‹_›, Nat.zero_le _⟩, rfl⟩⟩
    · exact operationAt_writeFlash.2 ⟨rfl, decide_eq_true (Nat.eq_zero_of_not_pos ‹_›).symm⟩
  | writeEeprom n =>
    refine ⟨_, _, _, exec_writeEeprom_start n hw hq, fun _ => ?_⟩
    unfold bytePos
    split
    · exact operationAt_writeEeprom.2 ⟨rfl, saveWriteOk_gather.2 ⟨⟨‹_›, Nat.zero_le _⟩, rfl⟩⟩
    · exact operationAt_writeEeprom.2 ⟨rfl, decide_eq_true (Nat.eq_zero_of_not_pos ‹_›).symm⟩
  | dump n =>
    have hfirst : 0 < bufHalfwords := by decide
    exact ⟨_, _, _, exec_dump_start n hw hq, fun _ => operationAt_dumpHalfword.2 ⟨⟨rfl, rfl⟩, hfirst⟩⟩
  | id n => exact ⟨_, _, _, exec_id_start n hw hq, fun _ => operationAt_id.2 ⟨rfl, rfl⟩⟩
  | unlock n => exact ⟨_, _, _, exec_unlock_start n hw hq, fun _ => operationAt_unlock.2 ⟨rfl, rfl⟩⟩
  | erase n => exact ⟨_, _, _, exec_erase_start n hw hq, fun _ => operationAt_erase.2 ⟨rfl, rfl⟩⟩
  | program n =>
    exact ⟨_, _, _, exec_program_start n hw hq, fun hc => operationAt_program.2 ⟨⟨rfl, rfl⟩, chunkCount_pos hc, nofun⟩⟩
  | unrecognisedWorker t p => exact ⟨s.crcacc, _, _, exec_unrecognisedWorker_start t p hq, fun _ => rfl⟩
  | _ => cases hi

/-- All that the sequencer's turn can answer, from every state (R130 to R133). -/
inductive TurnMove (s : State) : Result → Prop
  /-- The sequencer has no step. -/
  | rests (h : s.state ≠ .workerBusy ∨ s.seqFault ≠ none) : TurnMove s (.next s)
  /-- The start of the latched command's operation. -/
  | starts {acc : Word} {pos : SeqPos} {l : SeqLocals} (hw : s.state = .workerBusy) (hf : s.seqFault = none)
      (hq : s.seq = .idle) (hop : s.cfg.valid = true → operationAt s.cfg (decodeWorker s.cfg s.wcr) pos l = true) :
      TurnMove s (.next ((s.setAcc acc).toPos s.wcr pos l))
  /-- A micro-step before completion. -/
  | micro {cmd : Word} {pos : SeqPos} {l : SeqLocals} {r : Result} (hw : s.state = .workerBusy) (hf : s.seqFault = none)
      (hq : s.seq = .running cmd pos l) (hpos : pos ≠ .release)
      (hm : MicroMoveOf (decodeWorker s.cfg cmd) cmd pos l s r) : TurnMove s r
  /-- The result is written. -/
  | writesResult {cmd : Word} {l : SeqLocals} (hw : s.state = .workerBusy) (hf : s.seqFault = none)
      (hq : s.seq = .running cmd .writeResult l) : TurnMove s (.next ((s.latch l.result).toPos cmd .release l))
  /-- The operation is done. -/
  | releases {cmd : Word} {l : SeqLocals} (hw : s.state = .workerBusy) (hf : s.seqFault = none)
      (hq : s.seq = .running cmd .release l) : TurnMove s (.next s.releaseSeq)
  /-- The position is one of another operation, where no run comes (log 14). -/
  | refused (e : Refusal) : TurnMove s (.refused e)

/-- A running operation answers with the micro-step of its position, or refuses. -/
theorem exec_running_microStepAt_or_refused {i : Instr} {s : State} {cmd : Word} {pos : SeqPos} {l : SeqLocals}
    (hi : isSequencerInstr i = true) (hw : s.state = .workerBusy) (hq : s.seq = .running cmd pos l) :
    exec i s = microStepAt i cmd pos l s ∨ ∃ e, exec i s = .refused e := by
  obtain h | h := exec_running_cases hi hw hq
  · exact .inl h
  · obtain ⟨rfl, hc⟩ | ⟨rfl, hc⟩ | ⟨-, -, hc⟩ := completeOperation_cases cmd pos l s
    · exact .inl (h.trans hc)
    · exact .inl (h.trans hc)
    · exact .inr ⟨_, h.trans hc⟩

theorem turnMove (s : State) : TurnMove s (sequencerTurn s) := by
  obtain ⟨hw, hf, h⟩ | ⟨hrest, h⟩ := sequencerTurn_cases s
  · have hi := isSequencerInstr_decodeWorker s.cfg (latchedCommand s)
    cases hq : s.seq with
    | idle =>
      obtain ⟨acc, pos, l, hstart, hop⟩ := exec_start_at_operation hi hw hq
      rw [latchedCommand, hq] at hop
      exact h.trans hstart ▸ .starts hw hf hq hop
    | running cmd pos l =>
      rw [sequencerInstr] at h
      obtain hm | ⟨e, he⟩ := exec_running_microStepAt_or_refused hi hw hq
      · rw [h.trans hm]
        by_cases hres : pos = .writeResult
        · subst hres; exact .writesResult hw hf hq
        by_cases hrel : pos = .release
        · subst hrel; exact .releases hw hf hq
        rw [latchedCommand, hq]
        exact .micro hw hf hq hrel (microMove_microStepAt _ cmd pos l s hres hrel)
      · exact h.trans he ▸ .refused e
  · exact h ▸ .rests hrest

/-! ### What an exchange can do -/

/-- Where an exchange in `Idle` moves `STATE`: the first row of the transition table (R112). -/
def idleTarget (c : Cfg) (rx : Word) : FsmState :=
  if wordTag rx = c.tagUpload then .uploading
  else if wordTag rx = c.tagDownload then .downloading
  else if wordTag rx = c.tagRead then .reading
  else if c.workerTags.contains (wordTag rx) then .workerBusy else .idle

/-- The word of an exchange in `Uploading` is in the Buffer and counted (R108). -/
def uploadedWord (rx : Word) (u : State) : State :=
  (u.setBuf (setBuf32 u.buf u.off.toNat rx)).setTransfer u.len (u.off + 1)

/-- All that the FSM can answer to an exchange, from every state (R102 to R111). -/
inductive FsmMove (rx : Word) (u : State) : Result → Prop
  | upload (hs : u.state = .idle) (ht : idleTarget u.cfg rx = .uploading) :
      FsmMove rx u (.next (((u.goto .uploading).setTransfer (wordCount (wordParam rx)) 0).emit u.cfg.idleWord))
  | download (hs : u.state = .idle) (ht : idleTarget u.cfg rx = .downloading) :
      FsmMove rx u (.next (((u.goto .downloading).setTransfer (wordCount (wordParam rx)) 1).emit (buf32 u.buf 0)))
  | read (hs : u.state = .idle) (ht : idleTarget u.cfg rx = .reading) :
      FsmMove rx u (.next ((u.emit u.wcr).goto .reading))
  | dispatches (hs : u.state = .idle) (ht : idleTarget u.cfg rx = .workerBusy)
      (hi : isWorkerCommand (incomingInstr rx u) = true) (hk : isWorkerCommand (decodeWorker u.cfg rx) = true) :
      FsmMove rx u (.next (((u.latch rx).goto .workerBusy).emit u.cfg.busyWord))
  | nop (hs : u.state = .idle) (ht : idleTarget u.cfg rx = .idle) : FsmMove rx u (.next (u.emit u.cfg.idleWord))
  | invalid (hs : u.state = .idle) (ht : idleTarget u.cfg rx = .idle) :
      FsmMove rx u (.next ((u.record (.diag (.invalidCommand rx))).emit u.cfg.idleWord))
  | stores (hs : u.state = .uploading) (hlt : u.off < u.len) (hin : u.off.toNat < bufWords)
      (hmore : u.off + 1 < u.len) : FsmMove rx u (.next ((uploadedWord rx u).emit u.cfg.idleWord))
  | storesLast (hs : u.state = .uploading) (hlt : u.off < u.len) (hin : u.off.toNat < bufWords)
      (hdone : ¬ u.off + 1 < u.len) :
      FsmMove rx u (.next (((uploadedWord rx u).goto .idle).emit u.cfg.idleWord))
  | endsUpload (hs : u.state = .uploading) (hdone : ¬ u.off < u.len) :
      FsmMove rx u (.next ((u.goto .idle).emit u.cfg.idleWord))
  | loads (hs : u.state = .downloading) (hlt : u.off < u.len) (hin : u.off.toNat < bufWords) :
      FsmMove rx u (.next ((u.emit (buf32 u.buf u.off.toNat)).setTransfer u.len (u.off + 1)))
  | endsDownload (hs : u.state = .downloading) (hdone : ¬ u.off < u.len) :
      FsmMove rx u (.next ((u.goto .idle).emit u.cfg.idleWord))
  | faults (hs : u.state = .uploading ∨ u.state = .downloading) (hlt : u.off < u.len)
      (hout : ¬ u.off.toNat < bufWords) :
      FsmMove rx u (.fault (.bufferRange u.off.toNat (u.stopFsm u.off.toNat)))
  | endsRead (hs : u.state = .reading) : FsmMove rx u (.next ((u.goto .idle).emit u.cfg.idleWord))
  | busy (hs : u.state = .workerBusy) : FsmMove rx u (.next (u.emit u.cfg.busyWord))

/-- A worker command's word is the word it was read from. -/
theorem encode_of_workerOp {c : Cfg} {w : Word} {i : Instr} (h : workerOp c (wordTag w) (wordParam w) = some i) :
    encode c i = w := by
  have hword : ∀ tag, wordTag w = tag → commandWord tag (wordParam w) = w := fun _ ht => ht ▸ commandWord_fields w
  rcases workerOp_cases h with ⟨ht, rfl⟩ | ⟨ht, rfl⟩ | ⟨ht, rfl⟩ | ⟨ht, rfl⟩ | ⟨ht, rfl⟩ | ⟨ht, rfl⟩ | ⟨ht, rfl⟩ |
    ⟨ht, rfl⟩ | ⟨ht, rfl⟩ | ⟨ht, rfl⟩ | ⟨ht, rfl⟩ | ⟨ht, rfl⟩ <;> exact hword _ ht

theorem decodeWorker_of_workerOp {c : Cfg} {w : Word} {i : Instr}
    (h : workerOp c (wordTag w) (wordParam w) = some i) : decodeWorker c w = i := by
  rw [decodeWorker, h]

theorem fsmMove_idle (rx : Word) {u : State} (hs : u.state = .idle) : FsmMove rx u (exec (incomingInstr rx u) u) := by
  have hin : incomingInstr rx u = decodeIdle u.cfg rx := by rw [incomingInstr, hs]; rfl
  by_cases hup : wordTag rx = u.cfg.tagUpload
  · rw [hin, decodeIdle, if_pos hup]
    exact .upload hs (if_pos hup)
  by_cases hdown : wordTag rx = u.cfg.tagDownload
  · rw [hin, decodeIdle, if_neg hup, if_pos hdown, exec, execDownload, loadBuf32_zero]
    exact .download hs (by rw [idleTarget, if_neg hup, if_pos hdown])
  by_cases hread : wordTag rx = u.cfg.tagRead
  · rw [hin, decodeIdle, if_neg hup, if_neg hdown, if_pos hread]
    exact .read hs (by rw [idleTarget, if_neg hup, if_neg hdown, if_pos hread])
  have htarget : idleTarget u.cfg rx = if u.cfg.workerTags.contains (wordTag rx) then .workerBusy else .idle := by
    rw [idleTarget, if_neg hup, if_neg hdown, if_neg hread]
  cases hop : workerOp u.cfg (wordTag rx) (wordParam rx) with
  | some i =>
    have hi : incomingInstr rx u = i := by
      simp only [hin, decodeIdle, if_neg hup, if_neg hdown, if_neg hread, hop]
    have hw := isWorkerCommand_of_workerOp hop
    have hmem : wordTag rx ∈ u.cfg.workerTags := by
      by_contra hno
      rw [workerOp_eq_none.2 hno] at hop
      cases hop
    have hmove : exec (incomingInstr rx u) u = dispatchWorker rx u := by
      rw [hi, exec_dispatch hw (by simp [hs]), encode_of_workerOp hop]
    exact hmove ▸ .dispatches hs (htarget.trans (if_pos (List.contains_iff_mem.2 hmem))) (hi ▸ hw)
      ((decodeWorker_of_workerOp hop).symm ▸ hw)
  | none =>
    have hidle : idleTarget u.cfg rx = .idle :=
      htarget.trans (if_neg fun hc => workerOp_eq_none.1 hop (List.contains_iff_mem.1 hc))
    have hi : incomingInstr rx u = if rx = u.cfg.nopWord then .nop else .invalid rx := by
      simp only [hin, decodeIdle, if_neg hup, if_neg hdown, if_neg hread, hop]
    rw [hi]
    split
    · exact .nop hs hidle
    · exact .invalid hs hidle

theorem fsmMove_uploading (rx : Word) {u : State} (hs : u.state = .uploading) :
    FsmMove rx u (execUploadingStep rx u) := by
  unfold execUploadingStep
  split
  · rename_i hlt
    by_cases hin : u.off.toNat < bufWords
    · rw [storeBuf32_inside _ _ _ hin]
      by_cases hmore : u.off + 1 < u.len
      · rw [uploadingEnd_more hmore]
        exact .stores hs hlt hin hmore
      · rw [uploadingEnd_done hmore]
        exact .storesLast hs hlt hin hmore
    · rw [storeBuf32_outside _ _ _ hin, raiseFsm_eq]
      exact .faults (.inl hs) hlt hin
  · rename_i hdone
    rw [uploadingEnd_done hdone]
    exact .endsUpload hs hdone

theorem fsmMove_downloading (rx : Word) {u : State} (hs : u.state = .downloading) :
    FsmMove rx u (execDownloadingStep rx u) := by
  unfold execDownloadingStep
  split
  · rename_i hlt
    by_cases hin : u.off.toNat < bufWords
    · rw [loadBuf32_inside _ _ hin]
      exact .loads hs hlt hin
    · rw [loadBuf32_outside _ _ hin, raiseFsm_eq]
      exact .faults (.inr hs) hlt hin
  · exact .endsDownload hs ‹_›

theorem fsmMove (rx : Word) (u : State) : FsmMove rx u (exec (incomingInstr rx u) u) := by
  cases hs : u.state with
  | idle => exact fsmMove_idle rx hs
  | uploading =>
    rw [incomingInstr, hs]
    exact fsmMove_uploading rx hs
  | downloading =>
    rw [incomingInstr, hs]
    exact fsmMove_downloading rx hs
  | reading =>
    rw [incomingInstr, hs]
    exact .endsRead hs
  | workerBusy =>
    rw [incomingInstr, hs]
    exact .busy hs

/-! ### What a step can leave -/

/-- `t` is the next state of the answer, or the state that its fault carries. -/
def Leaves (r : Result) (t : State) : Prop := r = .next t ∨ ∃ i, r = .fault (.bufferRange i t)

@[simp] theorem leaves_next {u t : State} : Leaves (.next u) t ↔ t = u := by simp [Leaves, eq_comm]

@[simp] theorem leaves_fault {i : Nat} {u t : State} : Leaves (.fault (.bufferRange i u)) t ↔ t = u := by
  simp [Leaves, eq_comm]

@[simp] theorem not_leaves_refused {e : Refusal} {t : State} : ¬ Leaves (.refused e) t := by simp [Leaves]

/-- All that a step can leave, by the move that the environment gives it. -/
inductive StepMove (s t : State) : Prop
  | exchange {rx : Word} {rest : List Input} {r : Result} (hin : s.inputs = .exchange rx :: rest)
      (hf : s.fsmFault = none) (hm : FsmMove rx (takeExchange rx (s.withInputs rest)) r) (ht : Leaves r t)
  | stopped {rx : Word} {rest : List Input} {i : Nat} (hin : s.inputs = .exchange rx :: rest)
      (hf : s.fsmFault = some i) (ht : t = s.withInputs rest)
  | turn {rest : List Input} {r : Result} (hin : s.inputs = .sequencer :: rest ∨ (s.inputs = [] ∧ rest = []))
      (hm : TurnMove (s.withInputs rest) r) (ht : Leaves r t)
  | reset {rest : List Input} (hin : s.inputs = .reset :: rest) (ht : t = resetEvent (s.withInputs rest))

theorem stepMove {s t : State} (h : stateAfter s = some t) : StepMove s t := by
  have hl : Leaves (step s) t := stateAfter_eq_some.1 h
  obtain ⟨rx, rest, hin, hf, hr⟩ | ⟨rx, rest, i, hin, hf, hr⟩ | ⟨rest, hin, hr⟩ | ⟨rest, hin, hr⟩ := step_cases s <;>
    rw [hr] at hl
  · exact .exchange hin hf (fsmMove rx _) hl
  · exact .stopped hin hf (leaves_fault.1 hl)
  · exact .turn hin (turnMove _) hl
  · exact .reset hin (leaves_next.1 hl)

theorem leaves_of_exchange {s t : State} {rx : Word} {rest : List Input} (h : stateAfter s = some t)
    (hin : s.inputs = .exchange rx :: rest) (hf : s.fsmFault = none) :
    ∃ r, FsmMove rx (takeExchange rx (s.withInputs rest)) r ∧ Leaves r t :=
  ⟨_, fsmMove rx _, (step_exchange hin).trans (exchange_running rx hf) ▸ stateAfter_eq_some.1 h⟩

theorem leaves_of_turn {s t : State} (h : stateAfter s = some t)
    (hin : s.inputs = [] ∨ ∃ rest, s.inputs = .sequencer :: rest) :
    ∃ rest r, TurnMove (s.withInputs rest) r ∧ Leaves r t := by
  obtain hin | ⟨rest, hin⟩ := hin
  · exact ⟨s.inputs, _, turnMove s, step_nil hin ▸ stateAfter_eq_some.1 h⟩
  · exact ⟨rest, _, turnMove _, step_sequencer hin ▸ stateAfter_eq_some.1 h⟩

theorem not_exchange_of_turn {s : State} {rest : List Input}
    (h : s.inputs = .sequencer :: rest ∨ (s.inputs = [] ∧ rest = [])) (rx : Word) (rest' : List Input) :
    s.inputs ≠ .exchange rx :: rest' := by
  obtain h | ⟨h, -⟩ := h <;> simp [h]

/-! ### Who writes `WCR` and the Buffer -/

theorem MicroMove.wcr_eq {s t : State} {cmd : Word} {ok : SeqPos → SeqLocals → Prop} {past : Nat → Prop} {r : Result}
    (h : MicroMove s cmd ok past r) (ht : Leaves r t) : t.wcr = s.wcr := by
  cases h with
  | next hu _ => rw [leaves_next.1 ht, toPos_wcr, hu.wcr]
  | fault hu _ => rw [leaves_fault.1 ht, stopSeq_wcr, hu.wcr]

/-- Of an exchange's answers only the dispatch writes `WCR` (R24, R106). -/
theorem FsmMove.wcr_cases {rx : Word} {u t : State} {r : Result} (h : FsmMove rx u r) (ht : Leaves r t) :
    t.wcr = u.wcr ∨ (u.state = .idle ∧ isWorkerCommand (incomingInstr rx u) = true) := by
  cases h with
  | dispatches hs _ hi _ => exact .inr ⟨hs, hi⟩
  | faults _ _ _ => exact .inl (leaves_fault.1 ht ▸ rfl)
  | _ => exact .inl (leaves_next.1 ht ▸ rfl)

/-- Of a turn's answers only the last write but one of an operation writes `WCR` (R132). -/
theorem TurnMove.wcr_cases {s t : State} {r : Result} (h : TurnMove s r) (ht : Leaves r t) :
    t.wcr = s.wcr ∨ (s.state = .workerBusy ∧ ∃ cmd l, s.seq = .running cmd .writeResult l ∧ t.wcr = l.result) := by
  cases h with
  | rests _ => exact .inl (leaves_next.1 ht ▸ rfl)
  | starts _ _ _ _ => exact .inl (leaves_next.1 ht ▸ rfl)
  | micro _ _ _ _ hm => exact .inl (hm.wcr_eq ht)
  | writesResult hw _ hq => exact .inr ⟨hw, _, _, hq, leaves_next.1 ht ▸ rfl⟩
  | releases _ _ _ => exact .inl (leaves_next.1 ht ▸ rfl)
  | refused e => exact absurd ht not_leaves_refused

/-- Settles O51. -/
theorem onlyDispatchAndResultWriteWcr : Obligations.OnlyDispatchAndResultWriteWcr := by
  intro s t h hne
  cases stepMove h with
  | exchange hin _ hm ht =>
    obtain heq | ⟨hs, hi⟩ := hm.wcr_cases ht
    · exact absurd heq hne
    · exact .inl ⟨_, _, hin, hs, hi⟩
  | stopped _ _ ht => exact absurd (ht ▸ rfl) hne
  | turn _ hm ht => exact .inr (.inl ((hm.wcr_cases ht).resolve_left hne))
  | reset hin _ => exact .inr (.inr ⟨_, hin⟩)

/-- Of an exchange's answers only those in `Uploading` write the Buffer (R39, R108). -/
theorem FsmMove.buf_cases {rx : Word} {u t : State} {r : Result} (h : FsmMove rx u r) (ht : Leaves r t) :
    t.buf = u.buf ∨ u.state = .uploading := by
  cases h with
  | stores hs _ _ _ => exact .inr hs
  | storesLast hs _ _ _ => exact .inr hs
  | faults _ _ _ => exact .inl (leaves_fault.1 ht ▸ rfl)
  | _ => exact .inl (leaves_next.1 ht ▸ rfl)

/-- A turn outside `WorkerBusy` changes nothing (R130). -/
theorem TurnMove.eq_or_workerBusy {s t : State} {r : Result} (h : TurnMove s r) (ht : Leaves r t) :
    t = s ∨ s.state = .workerBusy := by
  cases h with
  | rests _ => exact .inl (leaves_next.1 ht)
  | starts hw _ _ _ => exact .inr hw
  | micro hw _ _ _ _ => exact .inr hw
  | writesResult hw _ _ => exact .inr hw
  | releases hw _ _ => exact .inr hw
  | refused e => exact absurd ht not_leaves_refused

/-- An exchange in `WorkerBusy` only loads `TXD` with `BUSY_WORD` (R111). -/
theorem step_exchange_workerBusy {s : State} {rx : Word} {rest : List Input} (hin : s.inputs = .exchange rx :: rest)
    (hs : s.state = .workerBusy) (hf : s.fsmFault = none) :
    step s = .next ((takeExchange rx (s.withInputs rest)).emit s.cfg.busyWord) := by
  rw [step_exchange hin, exchange_running (s := s.withInputs rest) rx hf, incomingInstr, withInputs_state, hs]
  rfl

/-- Settles O52. -/
theorem bufferWritersExcludeEachOther : Obligations.BufferWritersExcludeEachOther := by
  intro s t h
  refine ⟨fun hne => ?_, fun rx rest hin hs hf => ?_⟩
  · cases stepMove h with
    | exchange hin _ hm ht => exact .inl ⟨_, _, hin, (hm.buf_cases ht).resolve_left hne⟩
    | stopped _ _ ht => exact absurd (ht ▸ rfl) hne
    | turn hin hm ht =>
      obtain heq | hw := hm.eq_or_workerBusy ht
      · exact absurd (heq ▸ rfl) hne
      · exact .inr (.inl ⟨hw, not_exchange_of_turn hin⟩)
    | reset hin _ => exact .inr (.inr ⟨_, hin⟩)
  · rw [stateAfter_next (step_exchange_workerBusy hin hs hf)] at h
    exact (Option.some.inj h).symm

/-! ### Who writes `STATE` -/

/-- Where an exchange moves `STATE`: the transition table (R112). In `Uploading` it is the new `OFF` that counts. -/
def fsmTarget (rx : Word) (u t : State) : FsmState :=
  match u.state with
  | .idle => idleTarget u.cfg rx
  | .uploading => if t.off < t.len then .uploading else .idle
  | .downloading => if u.off < u.len then .downloading else .idle
  | .reading => .idle
  | .workerBusy => .workerBusy

theorem FsmMove.state_eq {rx : Word} {u t : State} {r : Result} (h : FsmMove rx u r) (ht : Leaves r t) :
    t.state = fsmTarget rx u t := by
  unfold fsmTarget
  cases h with
  | upload hs htgt => rw [leaves_next.1 ht, hs]; exact htgt.symm
  | download hs htgt => rw [leaves_next.1 ht, hs]; exact htgt.symm
  | read hs htgt => rw [leaves_next.1 ht, hs]; exact htgt.symm
  | dispatches hs htgt _ _ => rw [leaves_next.1 ht, hs]; exact htgt.symm
  | nop hs htgt => rw [leaves_next.1 ht, hs]; exact hs.trans htgt.symm
  | invalid hs htgt => rw [leaves_next.1 ht, hs]; exact hs.trans htgt.symm
  | stores hs _ _ hmore => rw [leaves_next.1 ht, hs]; exact hs.trans (if_pos hmore).symm
  | storesLast hs _ _ hdone => rw [leaves_next.1 ht, hs]; exact (if_neg hdone).symm
  | endsUpload hs hdone => rw [leaves_next.1 ht, hs]; exact (if_neg hdone).symm
  | loads hs hlt _ => rw [leaves_next.1 ht, hs]; exact hs.trans (if_pos hlt).symm
  | endsDownload hs hdone => rw [leaves_next.1 ht, hs]; exact (if_neg hdone).symm
  | faults hs hlt _ =>
    rw [leaves_fault.1 ht]
    obtain hs | hs := hs <;> rw [hs] <;> exact hs.trans (if_pos hlt).symm
  | endsRead hs => rw [leaves_next.1 ht, hs]; rfl
  | busy hs => rw [leaves_next.1 ht, hs]; exact hs

theorem MicroMove.state_eq {s t : State} {cmd : Word} {ok : SeqPos → SeqLocals → Prop} {past : Nat → Prop}
    {r : Result} (h : MicroMove s cmd ok past r) (ht : Leaves r t) : t.state = s.state := by
  cases h with
  | next hu _ => rw [leaves_next.1 ht, toPos_state, hu.state]
  | fault hu _ => rw [leaves_fault.1 ht, stopSeq_state, hu.state]

/-- A turn keeps `STATE`, or is the last write of an operation (R132). -/
theorem TurnMove.state_cases {s t : State} {r : Result} (h : TurnMove s r) (ht : Leaves r t) :
    (t.state = s.state ∧ ∀ cmd l, s.seq = .running cmd .release l → s.state ≠ .workerBusy ∨ s.seqFault ≠ none) ∨
      (s.state = .workerBusy ∧ t.state = .idle ∧ ∃ cmd l, s.seq = .running cmd .release l) := by
  cases h with
  | rests hrest => exact .inl ⟨leaves_next.1 ht ▸ rfl, fun _ _ _ => hrest⟩
  | starts _ _ hq _ => exact .inl ⟨leaves_next.1 ht ▸ rfl, fun _ _ hrel => by simp [hq] at hrel⟩
  | micro _ _ hq hpos hm => exact .inl ⟨hm.state_eq ht, fun _ _ hrel => by rw [hq] at hrel; cases hrel; exact absurd rfl hpos⟩
  | writesResult _ _ hq => exact .inl ⟨leaves_next.1 ht ▸ rfl, fun _ _ hrel => by simp [hq] at hrel⟩
  | releases hw _ hq => exact .inr ⟨hw, leaves_next.1 ht ▸ rfl, _, _, hq⟩
  | refused e => exact absurd ht not_leaves_refused

/-- The sequencer runs in `WorkerBusy` only (R38 f). -/
theorem workerBusy_of_running {s : State} {cmd : Word} {pos : SeqPos} {l : SeqLocals} (hs : Inv s)
    (hq : s.seq = .running cmd pos l) : s.state = .workerBusy := by
  have h := hs.seqInv
  rw [Machine.seqInv, hq] at h
  exact h.1

/-- Settles O44: `fsmTarget` is the table of an exchange, and of the sequencer's micro-steps only the last one moves
`STATE`. -/
theorem stateFollowsTheTransitionTable : Obligations.StateFollowsTheTransitionTable := by
  intro s t hs h
  refine ⟨fun rx rest hin hf => ?_, fun rx rest hin hf => ?_, fun hin => ?_, fun rest hin => ?_⟩
  · obtain ⟨r, hm, ht⟩ := leaves_of_exchange h hin hf
    have hstate : t.state = fsmTarget rx s t := hm.state_eq ht
    refine ⟨fun hst => ?_, fun hst => ?_, fun hst => ?_, fun hst => ?_, fun hst => ?_⟩ <;>
      simp only [hstate, fsmTarget, hst, idleTarget]
  · obtain ⟨i, hi⟩ := Option.ne_none_iff_exists'.1 hf
    have ht := stateAfter_fault ((step_exchange hin).trans (exchange_stopped rx hi))
    rw [← Option.some.inj (ht.symm.trans h), withInputs_state]
  · obtain ⟨rest, r, hm, ht⟩ := leaves_of_turn h hin
    obtain ⟨hkept, hrel⟩ | ⟨hw, hidle, hrel⟩ := hm.state_cases ht
    · refine ⟨fun hne => absurd hkept hne, fun cmd l hq hf => ?_⟩
      obtain hw | hf' := hrel cmd l hq
      · exact absurd (workerBusy_of_running hs hq) hw
      · exact absurd hf hf'
    · exact ⟨fun _ => ⟨hw, hidle, hrel⟩, fun _ _ _ _ => hidle⟩
  · rw [← Option.some.inj ((stateAfter_next (step_reset hin)).symm.trans h), resetEvent_state]

/-! ### The invariant in two parts: the transfer's and the sequencer's -/

/-- The clauses of the invariant about a transfer (R38 b to e) and an FSM that has stopped in one. -/
structure TransferInv (s : State) : Prop where
  lenBound : s.len.toNat < 2 ^ 24
  offBound : s.off.toNat ≤ max s.len.toNat 1
  offInBuffer : s.off.toNat ≤ bufWords
  uploading : s.state = .uploading → s.off < s.len ∨ (s.off = 0 ∧ s.len = 0)
  downloading : s.state = .downloading → 1 ≤ s.off.toNat
  fsmStopped : ∀ i, s.fsmFault = some i →
    (s.state = .uploading ∨ s.state = .downloading) ∧ i = bufWords ∧ s.off.toNat = bufWords ∧ s.off < s.len ∧ i ∈ s.faults

/-- The clauses of the invariant about the sequencer (R38 f, g), running or stopped. -/
structure WorkerInv (s : State) : Prop where
  seqInv : seqInv s
  workerKnown : s.state = .workerBusy → isWorkerCommand (sequencerInstr s) = true
  seqStopped : ∀ i, s.seqFault = some i →
    s.state = .workerBusy ∧ i = bufBytes ∧ bufBytes < byteLengthOf (sequencerInstr s) ∧ i ∈ s.faults

theorem inv_iff {s : State} :
    Inv s ↔ s.cfg.valid = true ∧ Memory.wf s.buf = true ∧ TransferInv s ∧ WorkerInv s := by
  refine ⟨fun h => ⟨h.cfgValid, h.bufWf, { h with }, { h with }⟩, fun ⟨hc, hb, ht, hw⟩ => ?_⟩
  exact { ht, hw with cfgValid := hc, bufWf := hb }

theorem transferInv_of_inv {s : State} (h : Inv s) : TransferInv s := (inv_iff.1 h).2.2.1

theorem workerInv_of_inv {s : State} (h : Inv s) : WorkerInv s := (inv_iff.1 h).2.2.2

/-! ### The two parts where their agent is at rest -/

/-- Outside a transfer only the bounds on the context stay (R38 b, c). -/
theorem transferInv_of_no_transfer {s t : State} (hs : TransferInv s) (hlen : t.len = s.len) (hoff : t.off = s.off)
    (hst : t.state ≠ .uploading ∧ t.state ≠ .downloading) (hf : t.fsmFault = none) : TransferInv t where
  lenBound := hlen ▸ hs.lenBound
  offBound := hlen ▸ hoff ▸ hs.offBound
  offInBuffer := hoff ▸ hs.offInBuffer
  uploading h := absurd h hst.1
  downloading h := absurd h hst.2
  fsmStopped i h := by simp [hf] at h

theorem workerInv_of_seq_idle {t : State} (hq : t.seq = .idle) (hst : t.state ≠ .workerBusy) (hf : t.seqFault = none) :
    WorkerInv t where
  seqInv := by rw [Machine.seqInv, hq]; trivial
  workerKnown h := absurd h hst
  seqStopped i h := by simp [hf] at h

/-- Outside `WorkerBusy` the sequencer is at rest and has not stopped (R38 f). -/
theorem seq_idle_of_not_workerBusy {s : State} (hs : WorkerInv s) (hst : s.state ≠ .workerBusy) :
    s.seq = .idle ∧ s.seqFault = none := by
  constructor
  · cases hq : s.seq with
    | idle => rfl
    | running cmd pos l =>
      have h := hs.seqInv
      rw [Machine.seqInv, hq] at h
      exact absurd h.1 hst
  · exact Option.eq_none_iff_forall_ne_some.2 fun i hi => hst (hs.seqStopped i hi).1

/-- The FSM stops in a transfer only. -/
theorem fsmFault_none_of_no_transfer {s : State} (hs : TransferInv s)
    (hst : s.state ≠ .uploading ∧ s.state ≠ .downloading) : s.fsmFault = none :=
  Option.eq_none_iff_forall_ne_some.2 fun i hi => (hs.fsmStopped i hi).1.elim hst.1 hst.2

/-- An exchange that leaves the sequencer at rest keeps its part of the invariant. -/
theorem workerInv_of_fsm {u t : State} (hu : WorkerInv u) (hst : u.state ≠ .workerBusy) (hst' : t.state ≠ .workerBusy)
    (hq : t.seq = u.seq := by rfl) (hf : t.seqFault = u.seqFault := by rfl) : WorkerInv t := by
  obtain ⟨hidle, hnone⟩ := seq_idle_of_not_workerBusy hu hst
  exact workerInv_of_seq_idle (hq.trans hidle) hst' (hf.trans hnone)

/-! ### An exchange keeps the invariant -/

theorem off_succ_toNat {u : State} (hin : u.off.toNat < bufWords) : (u.off + 1).toNat = u.off.toNat + 1 := by
  have h : u.off.toNat < 32768 := hin
  bv_omega

/-- A word counted inside the Buffer and below the count keeps the bounds on `OFF`. -/
theorem transferInv_of_counted {u t : State} (hu : TransferInv u) (hlt : u.off < u.len) (hin : u.off.toNat < bufWords)
    (hup : t.state = .uploading → t.off < t.len) (hf : t.fsmFault = none) (hlen : t.len = u.len := by rfl)
    (hoff : t.off = u.off + 1 := by rfl) : TransferInv t := by
  have hsucc := off_succ_toNat hin
  have hlt' : u.off.toNat < u.len.toNat := hlt
  constructor
  case lenBound => rw [hlen]; exact hu.lenBound
  case offBound => rw [hlen, hoff, hsucc]; omega
  case offInBuffer => rw [hoff, hsucc]; exact hin
  case uploading => exact fun h => .inl (hup h)
  case downloading => rw [hoff, hsucc]; omega
  case fsmStopped => intro i h; simp [hf] at h

theorem wordCount_toNat_lt (p : Param) : (wordCount p).toNat < 2 ^ 24 := by
  have h := p.isLt
  simp only [wordCount, BitVec.toNat_setWidth]
  omega

/-- The opening of an upload: `OFF` is 0, below the count unless that is 0 too (R103). -/
theorem transferInv_upload {t : State} (p : Param) (hlen : t.len = wordCount p) (hoff : t.off = 0)
    (hst : t.state = .uploading) (hf : t.fsmFault = none) : TransferInv t where
  lenBound := hlen ▸ wordCount_toNat_lt p
  offBound := by simp [hoff]
  offInBuffer := by simp [hoff]
  uploading _ := by
    rw [hoff]
    by_cases h : t.len = 0
    · exact .inr ⟨rfl, h⟩
    · exact .inl (by bv_omega)
  downloading h := by simp [hst] at h
  fsmStopped i h := by simp [hf] at h

/-- The opening of a download: `OFF` is 1 whatever the count (R104). -/
theorem transferInv_download {t : State} (p : Param) (hlen : t.len = wordCount p) (hoff : t.off = 1)
    (hst : t.state = .downloading) (hf : t.fsmFault = none) : TransferInv t where
  lenBound := hlen ▸ wordCount_toNat_lt p
  offBound := by simp [hoff]
  offInBuffer := by simp [hoff, bufWords]
  uploading h := by simp [hst] at h
  downloading _ := by simp [hoff]
  fsmStopped i h := by simp [hf] at h

/-- The command that the FSM latches is one of the twelve, and the sequencer has yet to start it (R106). -/
theorem workerInv_dispatch {rx : Word} {u t : State} (hu : WorkerInv u) (hs : u.state = .idle)
    (hk : isWorkerCommand (decodeWorker u.cfg rx) = true) (hwcr : t.wcr = rx) (hcfg : t.cfg = u.cfg)
    (hq : t.seq = u.seq) (hf : t.seqFault = u.seqFault) : WorkerInv t := by
  obtain ⟨hidle, hnone⟩ := seq_idle_of_not_workerBusy hu (by simp [hs])
  rw [hidle] at hq
  constructor
  case seqInv => rw [Machine.seqInv, hq]; trivial
  case workerKnown =>
    intro _
    rw [sequencerInstr, latchedCommand, hq, hwcr, hcfg]
    exact hk
  case seqStopped =>
    intro i h
    simp [hf, hnone] at h

/-- The FSM stops at the first word past the Buffer, inside a transfer whose count goes on (R55, R227). -/
theorem inv_stopFsm {u : State} (hu : Inv u) (hs : u.state = .uploading ∨ u.state = .downloading)
    (hlt : u.off < u.len) (hout : ¬ u.off.toNat < bufWords) : Inv (u.stopFsm u.off.toNat) := by
  have hoff : u.off.toNat = bufWords := Nat.le_antisymm hu.offInBuffer (Nat.le_of_not_lt hout)
  have hst : u.state ≠ .workerBusy := by obtain hs | hs := hs <;> simp [hs]
  refine inv_iff.2 ⟨hu.cfgValid, hu.bufWf, { transferInv_of_inv hu with fsmStopped := fun i hi => ?_ },
    workerInv_of_fsm (workerInv_of_inv hu) hst hst⟩
  obtain rfl := Option.some.inj hi
  exact ⟨hs, hoff, hoff, hlt, List.mem_cons_self⟩

theorem FsmMove.inv {rx : Word} {u t : State} {r : Result} (h : FsmMove rx u r) (ht : Leaves r t) (hu : Inv u)
    (hf : u.fsmFault = none) : Inv t := by
  have htr := transferInv_of_inv hu
  have hwk := workerInv_of_inv hu
  cases h with
  | upload hs _ =>
    rw [leaves_next.1 ht]
    exact inv_iff.2 ⟨hu.cfgValid, hu.bufWf, transferInv_upload (wordParam rx) rfl rfl rfl hf,
      workerInv_of_fsm hwk (by simp [hs]) nofun⟩
  | download hs _ =>
    rw [leaves_next.1 ht]
    exact inv_iff.2 ⟨hu.cfgValid, hu.bufWf, transferInv_download (wordParam rx) rfl rfl rfl hf,
      workerInv_of_fsm hwk (by simp [hs]) nofun⟩
  | read hs _ =>
    rw [leaves_next.1 ht]
    exact inv_iff.2 ⟨hu.cfgValid, hu.bufWf, transferInv_of_no_transfer htr rfl rfl ⟨nofun, nofun⟩ hf,
      workerInv_of_fsm hwk (by simp [hs]) nofun⟩
  | dispatches hs _ _ hk =>
    rw [leaves_next.1 ht]
    exact inv_iff.2 ⟨hu.cfgValid, hu.bufWf, transferInv_of_no_transfer htr rfl rfl ⟨nofun, nofun⟩ hf,
      workerInv_dispatch hwk hs hk rfl rfl rfl rfl⟩
  | nop _ _ => rw [leaves_next.1 ht]; exact { hu with }
  | invalid _ _ => rw [leaves_next.1 ht]; exact { hu with }
  | stores hs hlt hin hmore =>
    have hst : u.state ≠ .workerBusy := by simp [hs]
    rw [leaves_next.1 ht]
    exact inv_iff.2 ⟨hu.cfgValid, wf_setBuf32 rx hu.bufWf hin, transferInv_of_counted htr hlt hin (fun _ => hmore) hf,
      workerInv_of_fsm hwk hst hst⟩
  | storesLast hs hlt hin _ =>
    rw [leaves_next.1 ht]
    exact inv_iff.2 ⟨hu.cfgValid, wf_setBuf32 rx hu.bufWf hin, transferInv_of_counted htr hlt hin nofun hf,
      workerInv_of_fsm hwk (by simp [hs]) nofun⟩
  | loads hs hlt hin =>
    have hst : u.state ≠ .workerBusy := by simp [hs]
    rw [leaves_next.1 ht]
    exact inv_iff.2 ⟨hu.cfgValid, hu.bufWf,
      transferInv_of_counted htr hlt hin (fun hup => nomatch hs.symm.trans hup) hf, workerInv_of_fsm hwk hst hst⟩
  | endsUpload hs _ | endsDownload hs _ | endsRead hs =>
    rw [leaves_next.1 ht]
    exact inv_iff.2 ⟨hu.cfgValid, hu.bufWf, transferInv_of_no_transfer htr rfl rfl ⟨nofun, nofun⟩ hf,
      workerInv_of_fsm hwk (by simp [hs]) nofun⟩
  | faults hs hlt hout => rw [leaves_fault.1 ht]; exact inv_stopFsm hu hs hlt hout
  | busy _ => rw [leaves_next.1 ht]; exact { hu with }

/-! ### A turn keeps the invariant -/

theorem transferInv_of_workerBusy {s t : State} (hs : TransferInv s) (hw : s.state = .workerBusy)
    (hst : t.state = .workerBusy ∨ t.state = .idle) (hlen : t.len = s.len) (hoff : t.off = s.off)
    (hf : t.fsmFault = s.fsmFault) : TransferInv t :=
  transferInv_of_no_transfer hs hlen hoff (by obtain h | h := hst <;> simp [h])
    (hf.trans (fsmFault_none_of_no_transfer hs (by simp [hw])))

/-- The sequencer goes on with the command it works on, at a position of that command. -/
theorem workerInv_of_running {s t : State} {cmd : Word} {pos : SeqPos} {l : SeqLocals} (hs : WorkerInv s)
    (hw : s.state = .workerBusy) (hcmd : latchedCommand s = cmd) (hq : t.seq = .running cmd pos l)
    (hop : operationAt s.cfg (decodeWorker s.cfg cmd) pos l = true) (hwcr : pos ≠ .release → t.wcr = cmd)
    (hcfg : t.cfg = s.cfg) (hst : t.state = s.state) (hf : t.seqFault = none) : WorkerInv t := by
  constructor
  case seqInv =>
    rw [Machine.seqInv, hq]
    exact ⟨hst.trans hw, hcfg ▸ hop, hwcr⟩
  case workerKnown =>
    intro _
    have hknown := hs.workerKnown hw
    rw [sequencerInstr, hcmd] at hknown
    rw [sequencerInstr, latchedCommand, hq, hcfg]
    exact hknown
  case seqStopped =>
    intro i h
    simp [hf] at h

/-- What the invariant says of a running sequencer: its command stands in `WCR` until the result is written. -/
theorem running_of_workerInv {s : State} {cmd : Word} {pos : SeqPos} {l : SeqLocals} (hs : WorkerInv s)
    (hq : s.seq = .running cmd pos l) :
    latchedCommand s = cmd ∧ operationAt s.cfg (decodeWorker s.cfg cmd) pos l = true ∧ (pos ≠ .release → s.wcr = cmd) := by
  have h := hs.seqInv
  rw [Machine.seqInv, hq] at h
  obtain ⟨-, hop, hwcr⟩ := h
  exact ⟨by rw [latchedCommand, hq], hop, hwcr⟩

/-- Stopping the sequencer at the end of the Buffer, where its command's length goes on (R227). -/
theorem workerInv_stopSeq {s u : State} (hs : WorkerInv s) (hu : KeepsControl s u) (hw : s.state = .workerBusy)
    (hend : bufBytes < byteLengthOf (sequencerInstr s)) : WorkerInv (u.stopSeq bufBytes) := by
  have hinstr : sequencerInstr (u.stopSeq bufBytes) = sequencerInstr s := by
    simp [sequencerInstr, latchedCommand, hu.seq, hu.cfg, hu.wcr]
  constructor
  case seqInv =>
    have h := hs.seqInv
    simp only [Machine.seqInv, stopSeq_seq, stopSeq_state, stopSeq_cfg, stopSeq_wcr, hu.seq, hu.state, hu.cfg, hu.wcr]
      at h ⊢
    exact h
  case workerKnown => exact fun _ => hinstr ▸ hs.workerKnown hw
  case seqStopped =>
    intro i hi
    obtain rfl := Option.some.inj hi
    exact ⟨hu.state.trans hw, rfl, hinstr ▸ hend, List.mem_cons_self⟩

theorem MicroMove.inv {s t : State} {cmd : Word} {pos : SeqPos} {l : SeqLocals} {r : Result}
    (h : MicroMoveOf (decodeWorker s.cfg cmd) cmd pos l s r) (ht : Leaves r t) (hs : Inv s) (hw : s.state = .workerBusy)
    (hf : s.seqFault = none) (hq : s.seq = .running cmd pos l) (hpos : pos ≠ .release) : Inv t := by
  obtain ⟨hcmd, hop, hwcr⟩ := running_of_workerInv (workerInv_of_inv hs) hq
  cases h with
  | next hu hok =>
    rw [leaves_next.1 ht]
    exact inv_iff.2 ⟨hu.cfg ▸ hs.cfgValid, hu.bufWf hs.bufWf,
      transferInv_of_workerBusy (transferInv_of_inv hs) hw (.inl (hu.state.trans hw)) hu.len hu.off hu.fsmFault,
      workerInv_of_running (workerInv_of_inv hs) hw hcmd rfl (hok hs.cfgValid hop) (fun _ => hu.wcr.trans (hwcr hpos)) hu.cfg
        hu.state (hu.seqFault.trans hf)⟩
  | fault hu hi =>
    obtain ⟨rfl, hend⟩ := hi hs.cfgValid hop
    rw [leaves_fault.1 ht]
    rw [← hcmd] at hend
    exact inv_iff.2 ⟨hu.cfg ▸ hs.cfgValid, hu.bufWf hs.bufWf,
      transferInv_of_workerBusy (transferInv_of_inv hs) hw (.inl (hu.state.trans hw)) hu.len hu.off hu.fsmFault,
      workerInv_stopSeq (workerInv_of_inv hs) hu hw hend⟩

theorem TurnMove.inv {s t : State} {r : Result} (h : TurnMove s r) (ht : Leaves r t) (hs : Inv s) : Inv t := by
  cases h with
  | rests _ => exact leaves_next.1 ht ▸ hs
  | starts hw hf hq hop =>
    rw [leaves_next.1 ht]
    exact inv_iff.2 ⟨hs.cfgValid, hs.bufWf, transferInv_of_workerBusy (transferInv_of_inv hs) hw (.inl hw) rfl rfl rfl,
      workerInv_of_running (workerInv_of_inv hs) hw (by rw [latchedCommand, hq]) rfl (hop hs.cfgValid) (fun _ => rfl) rfl rfl hf⟩
  | micro hw hf hq hpos hm => exact hm.inv ht hs hw hf hq hpos
  | writesResult hw hf hq =>
    obtain ⟨hcmd, hop, -⟩ := running_of_workerInv (workerInv_of_inv hs) hq
    rw [leaves_next.1 ht]
    exact inv_iff.2 ⟨hs.cfgValid, hs.bufWf, transferInv_of_workerBusy (transferInv_of_inv hs) hw (.inl hw) rfl rfl rfl,
      workerInv_of_running (workerInv_of_inv hs) hw hcmd rfl (isSequencerInstr_of_operationAt hop) (absurd rfl) rfl rfl hf⟩
  | releases hw hf _ =>
    rw [leaves_next.1 ht]
    exact inv_iff.2 ⟨hs.cfgValid, hs.bufWf, transferInv_of_workerBusy (transferInv_of_inv hs) hw (.inr rfl) rfl rfl rfl,
      workerInv_of_seq_idle rfl nofun hf⟩
  | refused e => exact absurd ht not_leaves_refused

/-! ### The invariant -/

/-- The invariant does not look at the moves that are still to come. -/
theorem inv_withInputs {s : State} (hs : Inv s) (rest : List Input) : Inv (s.withInputs rest) := { hs with }

theorem inv_takeExchange {s : State} (hs : Inv s) (rx : Word) : Inv (takeExchange rx s) := { hs with }

/-- The reset event gives the invariant whatever the FSM and the sequencer were at (R250). -/
theorem inv_resetEvent {s : State} (hc : s.cfg.valid = true) : Inv (resetEvent s) where
  cfgValid := hc
  bufWf := resetEvent_buf s ▸ wf_ofBytes _
  lenBound := by simp
  offBound := by simp
  offInBuffer := by simp
  uploading := nofun
  downloading := nofun
  seqInv := trivial
  workerKnown := nofun
  fsmStopped := nofun
  seqStopped := nofun

/-- Settles O46: an exchange, a turn and the reset event each keep the invariant, and an exchange with a stopped FSM changes
nothing that it speaks of. -/
theorem invariantKeptByEveryStep : Obligations.InvariantKeptByEveryStep := by
  intro s t hs h
  cases stepMove h with
  | exchange _ hf hm ht => exact hm.inv ht (inv_takeExchange (inv_withInputs hs _) _) hf
  | stopped _ _ ht => exact ht ▸ inv_withInputs hs _
  | turn _ hm ht => exact hm.inv ht (inv_withInputs hs _)
  | reset _ ht => exact ht ▸ inv_resetEvent (inv_withInputs hs _).cfgValid

theorem cfg0_valid : Cfg.cfg0.valid = true := by decide

/-- Settles O45. -/
theorem invariantAtReset : Obligations.InvariantAtReset where
  cfgValid := cfg0_valid
  bufWf := wf_reset
  lenBound := by decide
  offBound := by decide
  offInBuffer := by decide
  uploading := nofun
  downloading := nofun
  seqInv := trivial
  workerKnown := nofun
  fsmStopped := nofun
  seqStopped := nofun

end Sys2Proof.Proofs

/-! PROOFS of the family `20_memory.md`, part 1: what an exchange runs, and the Buffer's three views. A word and a halfword
are told apart by their bytes (`eq_of_bytes_eq`), and byte `k` of a view is one byte of the Buffer, so every clause about
aliasing comes down to reading one byte after a write. -/

namespace Sys2Proof.Proofs

open Sys2Proof.Machine Sys2Proof.Laws

/-- Settles O41. -/
theorem stepRunsIncomingInstruction : Obligations.StepRunsIncomingInstruction :=
  fun s rx rest hin hf => (step_exchange hin).trans (exchange_running (s := s.withInputs rest) rx hf)

/-! ### A value is its bytes -/

/-- Two values of at most `n` bytes with the same bytes are equal. -/
theorem eq_of_bytes_eq {w n : Nat} {x y : BitVec w} (hw : w ≤ 8 * n)
    (h : ∀ k < n, x.extractLsb' (8 * k) 8 = y.extractLsb' (8 * k) 8) : x = y := by
  apply BitVec.eq_of_getLsbD_eq
  intro i hi
  have hbyte := congrArg (·.getLsbD (i % 8)) (h (i / 8) (by omega))
  simpa [Nat.mod_lt, Nat.div_add_mod] using hbyte

/-! ### A view is the bytes of the Buffer, least significant first (R51) -/

/-- Byte `k` of `Buf16[i]` (R53). -/
theorem byte_of_buf16 (m : Memory) (i : Nat) {k : Nat} (hk : k < 2) :
    (buf16 m i).extractLsb' (8 * k) 8 = Memory.read m (2 * i + k) := by
  match k, hk with
  | 0, _ => exact BitVec.extractLsb'_append_eq_right
  | 1, _ => exact BitVec.extractLsb'_append_eq_left

/-- `Buf32[i]` is its two halfwords (R53, R54). -/
theorem buf32_eq_halfwords (m : Memory) (i : Nat) : buf32 m i = buf16 m (2 * i + 1) ++ buf16 m (2 * i) := by
  have h0 : 2 * (2 * i) = 4 * i := by omega
  have h2 : 2 * (2 * i + 1) = 4 * i + 2 := by omega
  rw [buf32, buf16, buf16, h0, h2, BitVec.append_assoc]
  rfl

theorem low_of_buf32 (m : Memory) (i : Nat) : (buf32 m i).extractLsb' 0 16 = buf16 m (2 * i) :=
  buf32_eq_halfwords m i ▸ BitVec.extractLsb'_append_eq_right

theorem high_of_buf32 (m : Memory) (i : Nat) : (buf32 m i).extractLsb' 16 16 = buf16 m (2 * i + 1) :=
  buf32_eq_halfwords m i ▸ BitVec.extractLsb'_append_eq_left

/-- Byte `k` of `Buf32[i]` (R54). -/
theorem byte_of_buf32 (m : Memory) (i : Nat) {k : Nat} (hk : k < 4) :
    (buf32 m i).extractLsb' (8 * k) 8 = Memory.read m (4 * i + k) := by
  rw [buf32_eq_halfwords]
  by_cases hlow : k < 2
  · rw [BitVec.extractLsb'_append_eq_of_add_le (by omega), byte_of_buf16 m (2 * i) hlow]
    congr 1; omega
  · have hbyte : 8 * k - 16 = 8 * (k - 2) := by omega
    rw [BitVec.extractLsb'_append_eq_of_le (by omega), hbyte, byte_of_buf16 m (2 * i + 1) (by omega)]
    congr 1; omega

/-! ### One byte after a write through a view -/

section Write

variable {m : Memory} {i : Nat}

/-- Byte `k` of a stored word (R51, R54). -/
theorem read_setBuf32_byte (v : Word) (hm : Memory.wf m = true) (hi : i < bufWords) {k : Nat} (hk : k < 4) :
    Memory.read (setBuf32 m i v) (4 * i + k) = v.extractLsb' (8 * k) 8 := by
  rw [read_setBuf32 _ _ _ hm hi]
  match k, hk with
  | 0, _ => simp
  | 1, _ => simp
  | 2, _ => simp
  | 3, _ => simp

/-- A stored word touches no byte beside its own four. -/
theorem read_setBuf32_beside (v : Word) (hm : Memory.wf m = true) (hi : i < bufWords) {a : Nat}
    (ha : a < 4 * i ∨ 4 * i + 4 ≤ a) : Memory.read (setBuf32 m i v) a = Memory.read m a := by
  rw [read_setBuf32 _ _ _ hm hi, if_neg (by omega), if_neg (by omega), if_neg (by omega), if_neg (by omega)]

/-- Byte `k` of a stored halfword (R51, R53). -/
theorem read_setBuf16_byte (v : Halfword) (hm : Memory.wf m = true) (hi : i < bufHalfwords) {k : Nat} (hk : k < 2) :
    Memory.read (setBuf16 m i v) (2 * i + k) = v.extractLsb' (8 * k) 8 := by
  rw [read_setBuf16 _ _ _ hm hi]
  match k, hk with
  | 0, _ => simp
  | 1, _ => simp

/-- A stored halfword touches no byte beside its own two. -/
theorem read_setBuf16_beside (v : Halfword) (hm : Memory.wf m = true) (hi : i < bufHalfwords) {a : Nat}
    (ha : a < 2 * i ∨ 2 * i + 2 ≤ a) : Memory.read (setBuf16 m i v) a = Memory.read m a := by
  rw [read_setBuf16 _ _ _ hm hi, if_neg (by omega), if_neg (by omega)]

/-! ### A view after a write through the same view -/

theorem buf32_setBuf32_same (v : Word) (hm : Memory.wf m = true) (hi : i < bufWords) : buf32 (setBuf32 m i v) i = v :=
  eq_of_bytes_eq (n := 4) (by decide) fun _ hk => (byte_of_buf32 _ _ hk).trans (read_setBuf32_byte v hm hi hk)

theorem buf16_setBuf16_same (v : Halfword) (hm : Memory.wf m = true) (hi : i < bufHalfwords) :
    buf16 (setBuf16 m i v) i = v :=
  eq_of_bytes_eq (n := 2) (by decide) fun _ hk => (byte_of_buf16 _ _ hk).trans (read_setBuf16_byte v hm hi hk)

theorem buf32_setBuf32_other (v : Word) (hm : Memory.wf m = true) (hi : i < bufWords) {j : Nat} (hj : j ≠ i) :
    buf32 (setBuf32 m i v) j = buf32 m j :=
  eq_of_bytes_eq (n := 4) (by decide) fun k hk => by
    rw [byte_of_buf32 _ _ hk, byte_of_buf32 _ _ hk, read_setBuf32_beside v hm hi (by omega)]

theorem buf16_setBuf16_other (v : Halfword) (hm : Memory.wf m = true) (hi : i < bufHalfwords) {j : Nat} (hj : j ≠ i) :
    buf16 (setBuf16 m i v) j = buf16 m j :=
  eq_of_bytes_eq (n := 2) (by decide) fun k hk => by
    rw [byte_of_buf16 _ _ hk, byte_of_buf16 _ _ hk, read_setBuf16_beside v hm hi (by omega)]

/-! ### The word that holds a stored halfword -/

theorem halves_in_buffer (hi : i < bufWords) : 2 * i < bufHalfwords ∧ 2 * i + 1 < bufHalfwords := by
  simp only [bufWords, bufHalfwords] at *
  omega

theorem buf32_setBuf16_low (v : Halfword) (hm : Memory.wf m = true) (hi : i < bufWords) :
    buf32 (setBuf16 m (2 * i) v) i = (buf32 m i).extractLsb' 16 16 ++ v := by
  have hlow := (halves_in_buffer hi).1
  rw [buf32_eq_halfwords, high_of_buf32, buf16_setBuf16_same v hm hlow, buf16_setBuf16_other v hm hlow (by omega)]

theorem buf32_setBuf16_high (v : Halfword) (hm : Memory.wf m = true) (hi : i < bufWords) :
    buf32 (setBuf16 m (2 * i + 1) v) i = v ++ (buf32 m i).extractLsb' 0 16 := by
  have hhigh := (halves_in_buffer hi).2
  rw [buf32_eq_halfwords, low_of_buf32, buf16_setBuf16_same v hm hhigh, buf16_setBuf16_other v hm hhigh (by omega)]

/-- A word written as its two halfwords (R53, R54). -/
theorem buf32_setBuf16_halves (v : Word) (hm : Memory.wf m = true) (hi : i < bufWords) :
    buf32 (setBuf16 (setBuf16 m (2 * i) (v.extractLsb' 0 16)) (2 * i + 1) (v.extractLsb' 16 16)) i = v := by
  have hlow := (halves_in_buffer hi).1
  rw [buf32_setBuf16_high _ (wf_setBuf16 _ hm hlow) hi, low_of_buf32, buf16_setBuf16_same _ hm hlow]
  exact (BitVec.extractLsb'_append_extractLsb'_eq_extractLsb' (start₁ := 0) rfl).trans BitVec.extractLsb'_eq_self

end Write

/-! ### The statements -/

/-- The `Uploading` step inside the Buffer stores the word and then only counts it (R108). -/
theorem uploadingStep_stores (w : Word) {s : State} (hlt : s.off < s.len) (hin : s.off.toNat < bufWords) :
    ∃ t, exec (.uploadingStep w) s = .next t ∧ t.buf = setBuf32 s.buf s.off.toNat w := by
  rw [exec, execUploadingStep, if_pos hlt, storeBuf32_inside _ _ _ hin, uploadingEnd]
  refine ⟨_, rfl, ?_⟩
  split <;> rfl

/-- Settles O13. -/
theorem uploadingStepStoresFourBytes : Obligations.UploadingStepStoresFourBytes := by
  intro s w hm hlt hin
  obtain ⟨t, hnext, hbuf⟩ := uploadingStep_stores w hlt hin
  refine ⟨t, hnext, ?_⟩
  rw [hbuf]
  exact ⟨wf_setBuf32 w hm hin, fun k hk => read_setBuf32_byte w hm hin hk, fun a ha => read_setBuf32_beside w hm hin ha⟩

/-- Settles O58. -/
theorem bufferViewsAlias : Obligations.BufferViewsAlias := by
  refine ⟨fun m i v hm hi => ?_, fun m j v hm hj => ?_, fun m x b hm hx => ?_⟩
  · have hword : buf32 (setBuf32 m i v) i = v := buf32_setBuf32_same v hm hi
    refine ⟨hword, ?_, ?_, fun k hk => read_setBuf32_byte v hm hi hk, fun j hj => buf32_setBuf32_other v hm hi hj,
      buf32_setBuf16_halves v hm hi⟩
    · rw [← low_of_buf32, hword]
    · rw [← high_of_buf32, hword]
  · refine ⟨buf16_setBuf16_same v hm hj, fun k hk => read_setBuf16_byte v hm hj hk,
      fun h hh => buf16_setBuf16_other v hm hj hh, ?_⟩
    obtain ⟨i, rfl | rfl⟩ := Nat.even_or_odd' j
    · have hi : 2 * i / 2 = i := by omega
      rw [if_pos (by omega), hi]
      exact buf32_setBuf16_low v hm (by simp only [bufWords]; omega)
    · have hi : (2 * i + 1) / 2 = i := by omega
      rw [if_neg (by omega), hi]
      exact buf32_setBuf16_high v hm (by simp only [bufWords]; omega)
  · have hread : ∀ a, Memory.read (setBuf8 m x b) a = if a = x then b else Memory.read m a :=
      fun a => read_setBuf8 x a b hm
    refine ⟨(hread x).trans (if_pos rfl), fun y hy => (hread y).trans (if_neg hy), fun j k hk => ?_, fun i k hk => ?_⟩
    · exact (byte_of_buf16 _ _ hk).trans (hread _)
    · exact (byte_of_buf32 _ _ hk).trans (hread _)

end Sys2Proof.Proofs

/-! PROOFS of the family `20_memory.md`, part 2: what the host receives, where the flash is accessed, and how an operation
ends. They rest on one judgement over the micro-steps, `MicroTrace`: a micro-step leaves `TXD`, records only the events of its
position (`WorkerEvent`), and comes to `release` only where no result is owed. -/

namespace Sys2Proof.Proofs

open Sys2Proof.Machine Sys2Proof.Laws

/-! ### What a state has recorded since another -/

/-- All that `t` has on record beyond `s` are events with `P` (R78). -/
def Adds (P : Event → Prop) (s t : State) : Prop := ∃ new, t.history = new ++ s.history ∧ ∀ e ∈ new, P e

theorem adds_nothing {P : Event → Prop} {s t : State} (h : t.history = s.history) : Adds P s t := ⟨[], h, by simp⟩

theorem adds_event {P : Event → Prop} {s t : State} {e : Event} (he : P e) (h : t.history = e :: s.history) :
    Adds P s t := ⟨[e], h, by simpa using he⟩

theorem Adds.trans {P : Event → Prop} {s t u : State} (h : Adds P s t) (h' : Adds P t u) : Adds P s u := by
  obtain ⟨new, hnew, hP⟩ := h
  obtain ⟨new', hnew', hP'⟩ := h'
  exact ⟨new' ++ new, by rw [hnew', hnew, List.append_assoc], fun e he => (List.mem_append.1 he).elim (hP' e) (hP e)⟩

theorem Adds.mono {P Q : Event → Prop} {s t : State} (h : Adds P s t) (hPQ : ∀ e, P e → Q e) : Adds Q s t := by
  obtain ⟨new, hnew, hP⟩ := h
  exact ⟨new, hnew, fun e he => hPQ e (hP e he)⟩

/-- The events of a step are those that its state adds. -/
theorem Adds.of_mem {P : Event → Prop} {s t : State} {new : List Event} {e : Event} (h : Adds P s t)
    (hnew : t.history = new ++ s.history) (he : e ∈ new) : P e := by
  obtain ⟨new', hnew', hP⟩ := h
  exact hP e (List.append_cancel_right (hnew.symm.trans hnew') ▸ he)

/-- Without an exchange on record the host has received nothing (R62). -/
theorem receivedWords_of_adds {s t : State} (h : Adds (fun e => e.received = none) s t) :
    receivedWords t.history = receivedWords s.history := by
  obtain ⟨new, hnew, hnone⟩ := h
  rw [receivedWords, hnew, List.filterMap_append, List.filterMap_eq_nil_iff.2 hnone]
  rfl

/-- `u` is `s` after the data effects of a micro-step, its move of `SEQ` not yet made: `TXD` is left alone (R73), and only
events with `P` are recorded. -/
structure Records (P : Event → Prop) (s u : State) : Prop where
  txd : u.txd = s.txd := by rfl
  seq : u.seq = s.seq := by rfl
  adds : Adds P s u := by exact adds_nothing rfl

/-! ### The events of a position -/

/-- The positions of the five flash operations: only these make 16-bit accesses (R150). -/
def usesFlash : SeqPos → Bool
  | .id _ | .unlock _ | .erase _ | .program _ | .dumpHalfword => true
  | _ => false

/-- The events that a micro-step at `pos` may record. A 16-bit access is a whole number of halfwords from the local `a`. -/
inductive WorkerEvent (pos : SeqPos) (l : SeqLocals) : Event → Prop
  | r16 (hpos : usesFlash pos = true) {a : Word} (ha : ∃ j, a = halfwordAddress l.a j) (v : Halfword) :
      WorkerEvent pos l (.r16 a v)
  | w16 (hpos : usesFlash pos = true) {a : Word} (ha : ∃ j, a = halfwordAddress l.a j) (v : Halfword) :
      WorkerEvent pos l (.w16 a v)
  | r8 (a : Word) (v : Byte) : WorkerEvent pos l (.r8 a v)
  | w8 (a : Word) (v : Byte) : WorkerEvent pos l (.w8 a v)
  | saveRd (kind : SaveKind) (n : Param) (bytes : List Byte) (o : SaveOutcome) : WorkerEvent pos l (.saveRd kind n bytes o)
  | saveWr (kind : SaveKind) (n : Param) (bytes : List Byte) (o : SaveOutcome) : WorkerEvent pos l (.saveWr kind n bytes o)
  | diag (d : Diag) : WorkerEvent pos l (.diag d)

theorem WorkerEvent.received_eq_none {pos : SeqPos} {l : SeqLocals} {e : Event} (h : WorkerEvent pos l e) :
    e.received = none := by
  cases h <;> rfl

theorem self_eq_halfwordAddress (a : Word) : ∃ j, a = halfwordAddress a j := ⟨0, by simp [halfwordAddress]⟩

theorem halfwordAddress_add (a : Word) (i j : Nat) :
    halfwordAddress (halfwordAddress a i) j = halfwordAddress a (i + j) := by
  rw [halfwordAddress, halfwordAddress, halfwordAddress, BitVec.add_assoc, ← BitVec.ofNat_add, ← Nat.mul_add]

/-! ### The judgement over a micro-step -/

/-- The answer of a micro-step of `cmd`: it records only events with `P`, and where it comes to `release` the outcome of its
transaction meets `clear`. -/
inductive MicroTrace (s : State) (cmd : Word) (P : Event → Prop) (clear : SaveOutcome → Prop) : Result → Prop
  | next {u : State} {pos : SeqPos} {l : SeqLocals} (hu : Records P s u) (hrel : pos = .release → clear l.outcome) :
      MicroTrace s cmd P clear (.next (u.toPos cmd pos l))
  | fault {u : State} (i : Nat) (hu : Records P s u) : MicroTrace s cmd P clear (.fault (.bufferRange i (u.stopSeq i)))

section Shared

variable {s u : State} {cmd : Word} {P : Event → Prop} {clear : SaveOutcome → Prop}

theorem records_refl : Records P s s := {}

theorem records_event {e : Event} (he : P e) : Records P s (s.record e) := { adds := adds_event he rfl }

theorem Records.event {e : Event} (h : Records P s u) (he : P e) : Records P s (u.record e) :=
  { h with adds := h.adds.trans (adds_event he rfl) }

theorem records_cartRead16 {a : Word} (he : ∀ v, P (.r16 a v)) : Records P s (cartRead16 a s) :=
  { adds := adds_event (he _) rfl }

theorem records_cartRead8 {a : Word} (he : ∀ v, P (.r8 a v)) : Records P s (cartRead8 a s) :=
  { adds := adds_event (he _) rfl }

theorem microTrace_loadBuf8 {i : Nat} {k : Byte → Result} (hk : ∀ b, MicroTrace s cmd P clear (k b)) :
    MicroTrace s cmd P clear (loadBuf8 i s k) := by
  by_cases h : i < bufBytes
  · exact loadBuf8_inside s k h ▸ hk _
  · exact loadBuf8_outside s k h ▸ .fault i records_refl

theorem microTrace_loadBuf16 {i : Nat} {k : Halfword → Result} (hk : ∀ v, MicroTrace s cmd P clear (k v)) :
    MicroTrace s cmd P clear (loadBuf16 i s k) := by
  by_cases h : i < bufHalfwords
  · exact loadBuf16_inside s k h ▸ hk _
  · exact loadBuf16_outside s k h ▸ .fault i records_refl

theorem microTrace_storeBuf8 {i : Nat} {v : Byte} {k : State → Result} (hu : Records P s u)
    (hk : ∀ u', Records P s u' → MicroTrace s cmd P clear (k u')) : MicroTrace s cmd P clear (storeBuf8 i v u k) := by
  by_cases h : i < bufBytes
  · exact storeBuf8_inside v u k h ▸ hk _ { hu with }
  · exact storeBuf8_outside v u k h ▸ .fault i hu

theorem microTrace_storeBuf16 {i : Nat} {v : Halfword} {k : State → Result} (hu : Records P s u)
    (hk : ∀ u', Records P s u' → MicroTrace s cmd P clear (k u')) : MicroTrace s cmd P clear (storeBuf16 i v u k) := by
  by_cases h : i < bufHalfwords
  · exact storeBuf16_inside v u k h ▸ hk _ { hu with }
  · exact storeBuf16_outside v u k h ▸ .fault i hu

/-- The result waits for its write: not yet `release` (R132). -/
theorem MicroTrace.result {l : SeqLocals} {r : Word} (hu : Records P s u) :
    MicroTrace s cmd P clear (.next (u.toResult cmd r l)) := .next hu nofun

theorem microTrace_pollStatus {a : Word} {pos : SeqPos} {l : SeqLocals} {k : SeqLocals → State → Result}
    (he : ∀ v, P (.r16 a v)) (hstay : pos ≠ .release)
    (hk : ∀ l' u', Records P s u' → MicroTrace s cmd P clear (k l' u')) :
    MicroTrace s cmd P clear (pollStatus a cmd pos l s k) := by
  cases h : statusReady s.cfg (cartValue16 a s) with
  | true => exact pollStatus_ready k h ▸ hk _ _ (records_cartRead16 he)
  | false => exact pollStatus_busy k h ▸ .next (records_cartRead16 he) fun hrel => absurd hrel hstay

/-- After its transaction a save operation comes to `release` at once only where the transaction has not failed (R182, R183). -/
theorem microTrace_afterSave {l : SeqLocals} (hok : clear .ok) (hu : Records P s u) :
    MicroTrace s cmd P clear (.next (afterSave l.outcome cmd l u)) := by
  cases ho : l.outcome with
  | ok => exact .next hu fun _ => ho.symm ▸ hok
  | error status => exact .result hu

theorem microTrace_saveReadTransfer {kind : SaveKind} {stay copy : SeqPos} {l : SeqLocals} (hok : clear .ok)
    (he : ∀ bytes o, P (.saveRd kind l.n bytes o)) (hstay : stay ≠ .release) (hcopy : copy ≠ .release) :
    MicroTrace s cmd P clear (saveReadTransfer kind stay copy cmd l s) := by
  have hask : Records P s (askSaveRead s) := {}
  obtain ⟨-, hr⟩ | ⟨ans, l', s', -, rfl, rfl, hr⟩ := saveReadTransfer_cases kind stay copy cmd l s <;> rw [hr]
  · exact .next hask fun hrel => absurd hrel hstay
  · split
    · exact microTrace_afterSave (l := { l with bytes := _, outcome := ans.outcome }) hok (hask.event (he _ _))
    · exact .next (hask.event (he _ _)) fun hrel => absurd hrel hcopy

theorem microTrace_saveReadCopy {copy : SeqPos} {l : SeqLocals} (hok : clear .ok) (hcopy : copy ≠ .release) :
    MicroTrace s cmd P clear (saveReadCopy copy cmd l s) := by
  obtain ⟨-, hr⟩ | ⟨b, rest, l', s', -, -, rfl, rfl, hr⟩ | ⟨-, -, hr⟩ := saveReadCopy_cases copy cmd l s <;> rw [hr]
  · exact microTrace_afterSave hok records_refl
  · split
    · exact microTrace_afterSave (l := { l with bytes := rest, i := l.i + 1 }) hok {}
    · exact .next {} fun hrel => absurd hrel hcopy
  · exact .fault l.i records_refl

theorem microTrace_saveWriteGather {gather transfer : SeqPos} {l : SeqLocals} (hgather : gather ≠ .release)
    (htransfer : transfer ≠ .release) : MicroTrace s cmd P clear (saveWriteGather gather transfer cmd l s) := by
  refine microTrace_loadBuf8 fun b => .next records_refl ?_
  split
  · exact fun hrel => absurd hrel hgather
  · exact fun hrel => absurd hrel htransfer

theorem microTrace_saveWriteTransfer {kind : SaveKind} {stay : SeqPos} {l : SeqLocals} (hok : clear .ok)
    (he : ∀ o, P (.saveWr kind l.n l.bytes o)) (hstay : stay ≠ .release) :
    MicroTrace s cmd P clear (saveWriteTransfer kind stay cmd l s) := by
  have hask : Records P s (askSaveWrite s) := {}
  obtain ⟨-, hr⟩ | ⟨o, -, hr⟩ := saveWriteTransfer_cases kind stay cmd l s <;> rw [hr]
  · exact .next hask fun hrel => absurd hrel hstay
  · exact microTrace_afterSave (l := { l with outcome := o }) hok (hask.event (he _))

end Shared

/-! ### The micro-steps -/

/-- The trace of a micro-step of `i` from a position: `i` owes no result at `release`, if the position is one of `i`. -/
abbrev MicroTraceOf (i : Instr) (cmd : Word) (pos : SeqPos) (l : SeqLocals) (s : State) : Result → Prop :=
  MicroTrace s cmd (WorkerEvent pos l) fun o => operationAt s.cfg i pos l = true → mustWriteResult i o = false

theorem microTrace_crcMicroStep (i : Instr) (cmd : Word) (l : SeqLocals) (s : State) :
    MicroTraceOf i cmd .crcByte l s (crcMicroStep cmd l s) := by
  refine microTrace_loadBuf8 fun b => ?_
  unfold crcContinue
  split
  · exact .next {} nofun
  · exact .result {}

theorem microTrace_idMicroStep (i : Instr) (cmd : Word) (p : IdPos) (l : SeqLocals) (s : State) :
    MicroTraceOf i cmd (.id p) l s (idMicroStep p cmd l s) := by
  have hbase := self_eq_halfwordAddress l.a
  cases p with
  | command => exact .next (records_event (.w16 rfl hbase _)) nofun
  | manufacturer => exact .next (records_cartRead16 (.r16 rfl hbase)) nofun
  | device =>
    have hread : Records (WorkerEvent (.id .device) l) s (cartRead16 (l.a + 2) s) :=
      records_cartRead16 (.r16 rfl ⟨1, rfl⟩)
    refine .result ?_
    split
    · exact hread.event (.diag _)
    · exact hread

theorem microTrace_statusPoll {i : Instr} {cmd : Word} {pos : SeqPos} {l : SeqLocals} {s : State}
    (hpos : usesFlash pos = true) (hstay : pos ≠ .release) : MicroTraceOf i cmd pos l s (statusPoll pos cmd l s) :=
  microTrace_pollStatus (.r16 hpos (self_eq_halfwordAddress _)) hstay fun _ _ hu => .result hu

theorem microTrace_unlockMicroStep (i : Instr) (cmd : Word) (p : LockPos) (l : SeqLocals) (s : State) :
    MicroTraceOf i cmd (.unlock p) l s (unlockMicroStep p cmd l s) := by
  have hbase := self_eq_halfwordAddress l.a
  cases p with
  | setup => exact .next (records_event (.w16 rfl hbase _)) nofun
  | confirm => exact .next (records_event (.w16 rfl hbase _)) nofun
  | poll => exact microTrace_statusPoll rfl nofun

theorem microTrace_eraseMicroStep (i : Instr) (cmd : Word) (p : LockPos) (l : SeqLocals) (s : State) :
    MicroTraceOf i cmd (.erase p) l s (eraseMicroStep p cmd l s) := by
  have hbase := self_eq_halfwordAddress l.a
  cases p with
  | setup => exact .next (records_event (.w16 rfl hbase _)) nofun
  | confirm => exact .next (records_event (.w16 rfl hbase _)) nofun
  | poll => exact microTrace_statusPoll rfl nofun

theorem microTrace_programMicroStep (i : Instr) (cmd : Word) (p : ProgramPos) (l : SeqLocals) (s : State) :
    MicroTraceOf i cmd (.program p) l s (programMicroStep p cmd l s) := by
  have hchunk : ∃ j, chunkAddress s.cfg l.a l.k = halfwordAddress l.a j := ⟨_, rfl⟩
  cases p with
  | ready =>
    rw [programMicroStep]
    exact microTrace_pollStatus (.r16 rfl hchunk) nofun fun _ _ hu => .next hu nofun
  | command => exact .next (records_event (.w16 rfl hchunk _)) nofun
  | count => exact .next (records_event (.w16 rfl hchunk _)) nofun
  | data =>
    exact microTrace_loadBuf16 fun v => .next (records_event (.w16 rfl ⟨_, halfwordAddress_add _ _ _⟩ v)) nofun
  | confirm => exact .next (records_event (.w16 rfl hchunk _)) nofun
  | verdict =>
    refine microTrace_pollStatus (.r16 rfl hchunk) nofun fun l' u hu => ?_
    unfold programNext
    split
    · exact .result hu
    · exact .next hu nofun

/-- DUMP comes to `release` by itself, and has no result (R160). -/
theorem microTrace_dumpMicroStep (i : Instr) (cmd : Word) (l : SeqLocals) (s : State) :
    MicroTraceOf i cmd .dumpHalfword l s (dumpMicroStep cmd l s) := by
  refine microTrace_storeBuf16 (records_cartRead16 (.r16 rfl ⟨_, rfl⟩)) fun u hu => .next hu fun _ hop => ?_
  rw [(operationAt_dumpHalfword.1 hop).1.1]; rfl

theorem microTrace_readSramMicroStep (i : Instr) (cmd : Word) (l : SeqLocals) (s : State) :
    MicroTraceOf i cmd .readSramByte l s (readSramMicroStep cmd l s) := by
  refine microTrace_storeBuf8 (records_cartRead8 (.r8 _)) fun u hu => .next hu fun _ hop => ?_
  rw [(operationAt_readSramByte.1 hop).1]; rfl

theorem microTrace_writeSramMicroStep (i : Instr) (cmd : Word) (l : SeqLocals) (s : State) :
    MicroTraceOf i cmd .writeSramByte l s (writeSramMicroStep cmd l s) := by
  refine microTrace_loadBuf8 fun b => .next (records_event (.w8 _ b)) fun _ hop => ?_
  rw [(operationAt_writeSramByte.1 hop).1]; rfl

theorem microTrace_readFlashMicroStep (i : Instr) (cmd : Word) (p : SaveReadPos) (l : SeqLocals) (s : State) :
    MicroTraceOf i cmd (.readFlash p) l s (readFlashMicroStep p cmd l s) := by
  have hok : operationAt s.cfg i (.readFlash p) l = true → mustWriteResult i .ok = false := fun hop => by
    rw [(operationAt_readFlash.1 hop).1]; rfl
  cases p with
  | transfer => exact microTrace_saveReadTransfer hok (.saveRd _ _) nofun nofun
  | copy => exact microTrace_saveReadCopy hok nofun

theorem microTrace_readEepromMicroStep (i : Instr) (cmd : Word) (p : SaveReadPos) (l : SeqLocals) (s : State) :
    MicroTraceOf i cmd (.readEeprom p) l s (readEepromMicroStep p cmd l s) := by
  have hok : operationAt s.cfg i (.readEeprom p) l = true → mustWriteResult i .ok = false := fun hop => by
    rw [(operationAt_readEeprom.1 hop).1]; rfl
  cases p with
  | transfer => exact microTrace_saveReadTransfer hok (.saveRd _ _) nofun nofun
  | copy => exact microTrace_saveReadCopy hok nofun

theorem microTrace_writeFlashMicroStep (i : Instr) (cmd : Word) (p : SaveWritePos) (l : SeqLocals) (s : State) :
    MicroTraceOf i cmd (.writeFlash p) l s (writeFlashMicroStep p cmd l s) := by
  have hok : operationAt s.cfg i (.writeFlash p) l = true → mustWriteResult i .ok = false := fun hop => by
    rw [(operationAt_writeFlash.1 hop).1]; rfl
  cases p with
  | gather => exact microTrace_saveWriteGather nofun nofun
  | transfer => exact microTrace_saveWriteTransfer hok (.saveWr _ _ _) nofun

theorem microTrace_writeEepromMicroStep (i : Instr) (cmd : Word) (p : SaveWritePos) (l : SeqLocals) (s : State) :
    MicroTraceOf i cmd (.writeEeprom p) l s (writeEepromMicroStep p cmd l s) := by
  have hok : operationAt s.cfg i (.writeEeprom p) l = true → mustWriteResult i .ok = false := fun hop => by
    rw [(operationAt_writeEeprom.1 hop).1]; rfl
  cases p with
  | gather => exact microTrace_saveWriteGather nofun nofun
  | transfer => exact microTrace_saveWriteTransfer hok (.saveWr _ _ _) nofun

/-- The default arm comes to `release` by itself, and has no result (R187). -/
theorem microTrace_logUnrecognised (i : Instr) (cmd : Word) (l : SeqLocals) (s : State) :
    MicroTraceOf i cmd .logUnrecognised l s (microStepAt i cmd .logUnrecognised l s) := by
  refine .next (records_event (.diag _)) fun _ hop => ?_
  simp only [operationAt, Bool.and_eq_true, Bool.not_eq_true'] at hop
  obtain ⟨t, p, rfl⟩ := eq_unrecognisedWorker hop.1 hop.2
  rfl

/-- Before completion, whatever the position. -/
theorem microTrace_microStepAt (i : Instr) (cmd : Word) (pos : SeqPos) (l : SeqLocals) (s : State)
    (hres : pos ≠ .writeResult) (hrel : pos ≠ .release) : MicroTraceOf i cmd pos l s (microStepAt i cmd pos l s) := by
  cases pos with
  | crcByte => exact microTrace_crcMicroStep i cmd l s
  | id p => exact microTrace_idMicroStep i cmd p l s
  | unlock p => exact microTrace_unlockMicroStep i cmd p l s
  | erase p => exact microTrace_eraseMicroStep i cmd p l s
  | program p => exact microTrace_programMicroStep i cmd p l s
  | dumpHalfword => exact microTrace_dumpMicroStep i cmd l s
  | readSramByte => exact microTrace_readSramMicroStep i cmd l s
  | writeSramByte => exact microTrace_writeSramMicroStep i cmd l s
  | readFlash p => exact microTrace_readFlashMicroStep i cmd p l s
  | writeFlash p => exact microTrace_writeFlashMicroStep i cmd p l s
  | readEeprom p => exact microTrace_readEepromMicroStep i cmd p l s
  | writeEeprom p => exact microTrace_writeEepromMicroStep i cmd p l s
  | logUnrecognised => exact microTrace_logUnrecognised i cmd l s
  | writeResult => exact absurd rfl hres
  | release => exact absurd rfl hrel

/-! ### What a turn of the sequencer leaves -/

theorem MicroTrace.txd_and_adds {s t : State} {cmd : Word} {P : Event → Prop} {clear : SaveOutcome → Prop} {r : Result}
    (h : MicroTrace s cmd P clear r) (ht : Leaves r t) : t.txd = s.txd ∧ Adds P s t := by
  cases h with
  | next hu _ => rw [leaves_next.1 ht]; exact ⟨hu.txd, hu.adds⟩
  | fault _ hu => rw [leaves_fault.1 ht]; exact ⟨hu.txd, hu.adds⟩

/-- A micro-step leaves the sequencer at `release` only where it has come there `clear`, or was there before. -/
theorem MicroTrace.clear_of_release {s t : State} {cmd cmd' : Word} {P : Event → Prop} {clear : SaveOutcome → Prop}
    {l : SeqLocals} {r : Result} (h : MicroTrace s cmd P clear r) (ht : Leaves r t)
    (hq : t.seq = .running cmd' .release l) : s.seq = .running cmd' .release l ∨ (cmd' = cmd ∧ clear l.outcome) := by
  cases h with
  | next _ hrel =>
    rw [leaves_next.1 ht] at hq
    cases hq
    exact .inr ⟨rfl, hrel rfl⟩
  | fault _ hu =>
    rw [leaves_fault.1 ht] at hq
    exact .inl (hu.seq.symm.trans hq)

theorem microStepAt_txd_and_adds {i : Instr} {cmd : Word} {pos : SeqPos} {l : SeqLocals} {s t : State}
    (ht : Leaves (microStepAt i cmd pos l s) t) : t.txd = s.txd ∧ Adds (WorkerEvent pos l) s t := by
  by_cases hres : pos = .writeResult
  · subst hres; exact leaves_next.1 ht ▸ ⟨rfl, adds_nothing rfl⟩
  by_cases hrel : pos = .release
  · subst hrel; exact leaves_next.1 ht ▸ ⟨rfl, adds_nothing rfl⟩
  exact (microTrace_microStepAt i cmd pos l s hres hrel).txd_and_adds ht

/-- The events that a turn of the sequencer may record: those of the position where it stands. -/
def TurnEvent (s : State) (e : Event) : Prop := ∃ cmd pos l, s.seq = .running cmd pos l ∧ WorkerEvent pos l e

/-- From every state, also without the invariant, a turn leaves `TXD` and records what belongs to its position. -/
theorem turn_txd_and_adds {s t : State} (ht : Leaves (sequencerTurn s) t) : t.txd = s.txd ∧ Adds (TurnEvent s) s t := by
  obtain ⟨hw, -, h⟩ | ⟨-, h⟩ := sequencerTurn_cases s <;> rw [h] at ht
  · have hi := isSequencerInstr_decodeWorker s.cfg (latchedCommand s)
    cases hq : s.seq with
    | idle =>
      obtain ⟨acc, pos, l, hstart⟩ := exec_start hi hw hq
      rw [sequencerInstr, hstart] at ht
      exact leaves_next.1 ht ▸ ⟨rfl, adds_nothing rfl⟩
    | running cmd pos l =>
      obtain hm | ⟨e, he⟩ := exec_running_microStepAt_or_refused hi hw hq
      · rw [sequencerInstr, hm] at ht
        obtain ⟨htxd, hadds⟩ := microStepAt_txd_and_adds ht
        exact ⟨htxd, hadds.mono fun _ he => ⟨cmd, pos, l, hq, he⟩⟩
      · rw [sequencerInstr, he] at ht
        exact absurd ht not_leaves_refused
  · exact leaves_next.1 ht ▸ ⟨rfl, adds_nothing rfl⟩

/-- An operation that starts at `release`, a byte loop of length 0, has no result (R180, R181). -/
theorem exec_start_clear {i : Instr} {s : State} (hi : isSequencerInstr i = true) (hw : s.state = .workerBusy)
    (hq : s.seq = .idle) : ∃ acc pos l, exec i s = .next ((s.setAcc acc).toPos s.wcr pos l) ∧
      (pos = .release → mustWriteResult i l.outcome = false) := by
  cases i with
  | crc32 n =>
    rw [exec_crc32_start n hw hq, crcContinue]
    split <;> exact ⟨_, _, _, rfl, nofun⟩
  | readSram n => exact ⟨_, _, _, exec_readSram_start n hw hq, fun _ => rfl⟩
  | writeSram n => exact ⟨_, _, _, exec_writeSram_start n hw hq, fun _ => rfl⟩
  | readFlash n => exact ⟨_, _, _, exec_readFlash_start n hw hq, nofun⟩
  | writeFlash n => exact ⟨_, _, _, exec_writeFlash_start n hw hq, fun _ => rfl⟩
  | readEeprom n => exact ⟨_, _, _, exec_readEeprom_start n hw hq, nofun⟩
  | writeEeprom n => exact ⟨_, _, _, exec_writeEeprom_start n hw hq, fun _ => rfl⟩
  | dump n => exact ⟨_, _, _, exec_dump_start n hw hq, nofun⟩
  | id n => exact ⟨_, _, _, exec_id_start n hw hq, nofun⟩
  | unlock n => exact ⟨_, _, _, exec_unlock_start n hw hq, nofun⟩
  | erase n => exact ⟨_, _, _, exec_erase_start n hw hq, nofun⟩
  | program n => exact ⟨_, _, _, exec_program_start n hw hq, nofun⟩
  | unrecognisedWorker t p => exact ⟨s.crcacc, _, _, exec_unrecognisedWorker_start t p hq, nofun⟩
  | _ => cases hi

/-- How a turn can leave an operation at `release`: it was there, its result has been written, or it owes none (R132). -/
theorem turn_release {s t : State} {cmd : Word} {l : SeqLocals} (hs : WorkerInv s) (ht : Leaves (sequencerTurn s) t)
    (hrel : t.seq = .running cmd .release l) :
    s.seq = .running cmd .release l ∨ (s.seq = .running cmd .writeResult l ∧ t.wcr = l.result) ∨
      mustWriteResult (decodeWorker s.cfg cmd) l.outcome = false := by
  obtain ⟨hw, -, h⟩ | ⟨-, h⟩ := sequencerTurn_cases s <;> rw [h] at ht
  · rw [sequencerInstr] at ht
    cases hq : s.seq with
    | idle =>
      have hi := isSequencerInstr_decodeWorker s.cfg (latchedCommand s)
      obtain ⟨acc, pos, l', hstart, hclear⟩ := exec_start_clear hi hw hq
      rw [hstart] at ht
      obtain rfl := leaves_next.1 ht
      cases hrel
      rw [latchedCommand, hq] at hclear
      exact .inr (.inr (hclear rfl))
    | running cmd' pos l' =>
      obtain ⟨hcmd, hop, -⟩ := running_of_workerInv hs hq
      rw [hcmd, exec_at_operation hw hq hop] at ht
      by_cases hres : pos = .writeResult
      · subst hres
        obtain rfl := leaves_next.1 ht
        cases hrel
        exact .inr (.inl ⟨rfl, rfl⟩)
      by_cases hend : pos = .release
      · subst hend
        obtain rfl := leaves_next.1 ht
        cases hrel
      obtain hbefore | ⟨rfl, hclear⟩ :=
        (microTrace_microStepAt _ cmd' pos l' s hres hend).clear_of_release ht hrel
      · exact .inl (hq ▸ hbefore)
      · exact .inr (.inr (hclear hop))
  · exact .inl (leaves_next.1 ht ▸ hrel)

/-! ### What an exchange leaves -/

/-- Beside the exchange itself the FSM records at most the log of an invalid word (R62, R107). -/
theorem FsmMove.adds {rx : Word} {u t : State} {r : Result} (h : FsmMove rx u r) (ht : Leaves r t) :
    Adds (fun e => ∃ d, e = .diag d) u t := by
  cases h with
  | invalid _ _ => exact leaves_next.1 ht ▸ adds_event ⟨_, rfl⟩ rfl
  | faults _ _ _ => exact leaves_fault.1 ht ▸ adds_nothing rfl
  | _ => exact leaves_next.1 ht ▸ adds_nothing rfl

/-- No exchange moves the sequencer (R231). -/
theorem FsmMove.seq_eq {rx : Word} {u t : State} {r : Result} (h : FsmMove rx u r) (ht : Leaves r t) :
    t.seq = u.seq := by
  cases h with
  | faults _ _ _ => exact leaves_fault.1 ht ▸ rfl
  | _ => exact leaves_next.1 ht ▸ rfl

/-! ### What a step leaves -/

/-- A move that is the sequencer's turn leaves what the turn leaves. -/
theorem leaves_sequencerTurn {s t : State} {rest : List Input} (h : stateAfter s = some t)
    (hin : s.inputs = .sequencer :: rest ∨ (s.inputs = [] ∧ rest = [])) :
    Leaves (sequencerTurn (s.withInputs rest)) t := by
  obtain hin | ⟨hin, rfl⟩ := hin
  · exact step_sequencer hin ▸ stateAfter_eq_some.1 h
  · have hs : s.withInputs [] = s := by rw [← hin]; rfl
    rw [hs, ← step_nil hin]
    exact stateAfter_eq_some.1 h

/-- Settles O50: the exchange puts the old `TXD` on record, and nothing that an FSM step or a turn records is received. -/
theorem exchangeDeliversTheOldTxd : Obligations.ExchangeDeliversTheOldTxd := by
  intro s t h
  refine ⟨fun rx rest hin hf => ?_, fun rx rest hin hf => ?_, fun hno => ?_⟩
  · obtain ⟨r, hm, ht⟩ := leaves_of_exchange h hin hf
    refine receivedWords_of_adds ((hm.adds ht).mono fun e he => ?_)
    obtain ⟨d, rfl⟩ := he
    rfl
  · obtain ⟨i, hi⟩ := Option.ne_none_iff_exists'.1 hf
    have ht := stateAfter_fault ((step_exchange hin).trans (exchange_stopped rx hi))
    rw [← Option.some.inj (ht.symm.trans h)]
    exact ⟨rfl, rfl⟩
  · cases stepMove h with
    | exchange hin _ _ _ => exact absurd hin (hno _ _)
    | stopped hin _ _ => exact absurd hin (hno _ _)
    | turn hin _ _ =>
      obtain ⟨htxd, hadds⟩ := turn_txd_and_adds (leaves_sequencerTurn h hin)
      refine ⟨receivedWords_of_adds (hadds.mono fun e he => ?_), .inl htxd⟩
      obtain ⟨cmd, pos, l, -, he⟩ := he
      exact he.received_eq_none
    | reset hin ht => exact ⟨ht ▸ rfl, .inr ⟨_, hin⟩⟩

/-! ### The parity of flash addresses -/

theorem even_add {x y : Word} (hx : x.getLsbD 0 = false) (hy : y.getLsbD 0 = false) : (x + y).getLsbD 0 = false := by
  rw [BitVec.getLsbD_add (by decide), hx, hy, BitVec.carry_zero]
  rfl

/-- A flash block starts at an even address, since `ROM_BASE` is even (R7, R150). -/
theorem even_flashAddress {c : Cfg} (hc : c.valid = true) (p : Param) : (flashAddress c p).getLsbD 0 = false := by
  refine even_add (romBase_even hc) ?_
  have hmul : (p.setWidth 32 * 256 : Word) = p.setWidth 32 <<< 8 := by rw [BitVec.shiftLeft_eq_mul_twoPow]; rfl
  rw [hmul, BitVec.getLsbD_shiftLeft]
  rfl

theorem even_halfwordAddress {a : Word} (ha : a.getLsbD 0 = false) (j : Nat) : (halfwordAddress a j).getLsbD 0 = false :=
  even_add ha (by rw [BitVec.getLsbD_ofNat]; simp)

/-- Where the invariant lets a flash operation stand, its local `a` is the address of its parameter (R33, R150). -/
theorem base_of_operationAt {c : Cfg} {i : Instr} {pos : SeqPos} {l : SeqLocals} (hpos : usesFlash pos = true)
    (hop : operationAt c i pos l = true) : l.a = flashAddress c (romOffsetOf i) := by
  cases pos with
  | id q => exact (operationAt_id.1 hop).2
  | unlock q => exact (operationAt_unlock.1 hop).2
  | erase q => exact (operationAt_erase.1 hop).2
  | program q => exact (operationAt_program.1 hop).1.2
  | dumpHalfword => exact (operationAt_dumpHalfword.1 hop).1.2
  | _ => cases hpos

/-- The event is no 16-bit access, or one at an even address (R56). -/
def EvenAccess (e : Event) : Prop := ∀ a v, e = .r16 a v ∨ e = .w16 a v → a.getLsbD 0 = false

theorem evenAccess_of_workerEvent {pos : SeqPos} {l : SeqLocals} {e : Event} (h : WorkerEvent pos l e)
    (heven : usesFlash pos = true → l.a.getLsbD 0 = false) : EvenAccess e := by
  intro a v hacc
  cases h with
  | r16 hpos ha _ =>
    obtain ⟨j, rfl⟩ := ha
    obtain h | h := hacc <;> cases h
    exact even_halfwordAddress (heven hpos) j
  | w16 hpos ha _ =>
    obtain ⟨j, rfl⟩ := ha
    obtain h | h := hacc <;> cases h
    exact even_halfwordAddress (heven hpos) j
  | _ => simp at hacc

theorem evenAccess_of_turnEvent {s : State} {e : Event} (hs : Inv s) (h : TurnEvent s e) : EvenAccess e := by
  obtain ⟨cmd, pos, l, hq, he⟩ := h
  obtain ⟨-, hop, -⟩ := running_of_workerInv (workerInv_of_inv hs) hq
  exact evenAccess_of_workerEvent he fun hpos => base_of_operationAt hpos hop ▸ even_flashAddress hs.cfgValid _

/-- Every 16-bit access of a step is at an even address (R56, R150). -/
theorem adds_evenAccess {s t : State} (hs : Inv s) (h : stateAfter s = some t) : Adds EvenAccess s t := by
  cases stepMove h with
  | @exchange rx rest r hin hf hm ht =>
    have hexch : Adds EvenAccess s (takeExchange rx (s.withInputs rest)) :=
      adds_event (e := .exch rx s.txd) (by simp [EvenAccess]) rfl
    refine hexch.trans ((hm.adds ht).mono fun e he => ?_)
    obtain ⟨d, rfl⟩ := he
    simp [EvenAccess]
  | stopped _ _ ht => exact ht ▸ adds_nothing rfl
  | @turn rest r hin _ _ =>
    have hadds := (turn_txd_and_adds (leaves_sequencerTurn h hin)).2
    exact hadds.mono fun _ => evenAccess_of_turnEvent (inv_withInputs hs rest)
  | reset _ ht => exact ht ▸ adds_event (e := .reset) (by simp [EvenAccess]) rfl

/-- Settles O57. -/
theorem flashAccessesAreAtEvenAddresses : Obligations.FlashAccessesAreAtEvenAddresses := by
  intro s t new a v hs h hnew hacc
  have hadds := adds_evenAccess hs h
  obtain hmem | hmem := hacc
  · exact hadds.of_mem hnew hmem a v (.inl rfl)
  · exact hadds.of_mem hnew hmem a v (.inr rfl)

/-! ### The end of an operation -/

/-- The two writes of completion, for every sequencer instruction (R132). -/
theorem exec_completion_writes {i : Instr} {s : State} {cmd : Word} {l : SeqLocals} (hi : isSequencerInstr i = true)
    (hw : s.state = .workerBusy) :
    (s.seq = .running cmd .writeResult l → exec i s = .next { s with wcr := l.result, seq := .running cmd .release l }) ∧
    (s.seq = .running cmd .release l → exec i s = .next { s with state := .idle, seq := .idle }) :=
  ⟨fun hq => exec_complete hi hw hq (.inl rfl), fun hq => exec_complete hi hw hq (.inr rfl)⟩

/-- A step from `WorkerBusy` to `Idle` is the reset event or the release, which keeps `WCR` (R112, R132). -/
theorem idle_of_workerBusy {s t : State} (h : stateAfter s = some t) (hw : s.state = .workerBusy) (hidle : t.state = .idle) :
    (∃ rest, s.inputs = .reset :: rest) ∨ (∃ cmd l, s.seq = .running cmd .release l ∧ t.wcr = s.wcr) := by
  cases stepMove h with
  | @exchange rx rest r _ _ hm ht =>
    have hbusy : t.state = .workerBusy := by
      rw [hm.state_eq ht, fsmTarget, show (takeExchange rx (s.withInputs rest)).state = .workerBusy from hw]
    cases hbusy.symm.trans hidle
  | stopped _ _ ht =>
    rw [ht, withInputs_state, hw] at hidle
    cases hidle
  | turn _ hm ht =>
    obtain ⟨hkept, -⟩ | ⟨-, -, cmd, l, hq⟩ := hm.state_cases ht
    · cases (hkept.trans hw).symm.trans hidle
    · obtain hwcr | ⟨-, cmd', l', hq', -⟩ := hm.wcr_cases ht
      · exact .inr ⟨cmd, l, hq, hwcr⟩
      · cases hq.symm.trans hq'
  | reset hin _ => exact .inl ⟨_, hin⟩

/-- An operation is left at `release` where it was there, its result has been written, or it owes none (R132, R135, R188). -/
theorem release_of_step {s t : State} {cmd : Word} {l : SeqLocals} (hs : Inv s) (h : stateAfter s = some t)
    (hrel : t.seq = .running cmd .release l) :
    s.seq = .running cmd .release l ∨ (s.seq = .running cmd .writeResult l ∧ t.wcr = l.result) ∨
      mustWriteResult (decodeWorker s.cfg cmd) l.outcome = false := by
  cases stepMove h with
  | exchange _ _ hm ht => exact .inl ((hm.seq_eq ht).symm.trans hrel)
  | stopped _ _ ht => rw [ht] at hrel; exact .inl hrel
  | @turn rest r hin _ _ =>
    exact turn_release (s := s.withInputs rest) (workerInv_of_inv (inv_withInputs hs rest)) (leaves_sequencerTurn h hin) hrel
  | reset _ ht => rw [ht] at hrel; cases hrel

/-- Settles O18. -/
theorem completionWritesResultThenState : Obligations.CompletionWritesResultThenState :=
  ⟨fun _ _ _ _ hi hw => exec_completion_writes hi hw, fun _ _ _ h hw hidle => idle_of_workerBusy h hw hidle,
    fun _ _ _ _ hs h hrel => release_of_step hs h hrel⟩

end Sys2Proof.Proofs

/-! PROOFS of the family `30_encoding.md`: decode and encode are inverse to each other, and the FSM and the sequencer read a
worker command alike. What `Idle` reads is said once per kind of tag: `decodeIdle_upload` and the equations after it for a
valid configuration, `decodeIdle_cases` for every configuration. -/

namespace Sys2Proof.Proofs

open Sys2Proof.Machine Sys2Proof.Laws

/-! ### Well-formedness as propositions -/

theorem isInvalidWord_iff {c : Cfg} {w : Word} : isInvalidWord c w = true ↔ wordTag w ∉ c.tags ∧ w ≠ c.nopWord := by
  simp [isInvalidWord, wordTag]

theorem isUnrecognisedTag_iff {c : Cfg} {t : Byte} : isUnrecognisedTag c t = true ↔ t ∉ c.workerTags := by
  simp [isUnrecognisedTag]

theorem wellFormed_of_isWorkerCommand (c : Cfg) {i : Instr} (h : isWorkerCommand i = true) : i.wellFormed c = true := by
  cases i with
  | invalid | unrecognisedWorker => cases h
  | _ => rfl

/-! ### The encoder -/

/-- A word with the tag `t` is the command word of `t` and the word's parameter (R80, R91). -/
theorem commandWord_of_wordTag {w : Word} {t : Byte} (h : wordTag w = t) : commandWord t (wordParam w) = w :=
  h ▸ commandWord_fields w

/-- The worker dispatch undoes the encoder on the twelve worker commands (R82, R84). -/
theorem workerOp_encode {c : Cfg} (hc : c.valid = true) {i : Instr} (h : isWorkerCommand i = true) :
    workerOp c (wordTag (encode c i)) (wordParam (encode c i)) = some i := by
  cases i with
  | nop | upload | download | read | invalid => cases h
  | uploadingStep | downloadingStep | readingStep | workerBusyStep | unrecognisedWorker => cases h
  | _ => simp only [encode, wordTag_commandWord, wordParam_commandWord, workerOp_tags hc]

/-- A worker command is read as such in `Idle` (R82). -/
theorem decodeContext_of_isWorkerCommand {i : Instr} (h : isWorkerCommand i = true) :
    decodeContext i = .incoming .idle := by
  cases i with
  | uploadingStep | downloadingStep | readingStep | workerBusyStep | unrecognisedWorker => cases h
  | _ => rfl

/-! ### What `Idle` and the sequencer read -/

/-- The tags that `Decode` tests first are no worker tags, and differ from each other (R7). -/
theorem transferTags_distinct {c : Cfg} (hc : c.valid = true) :
    c.tagUpload ≠ c.tagDownload ∧ c.tagUpload ≠ c.tagRead ∧ c.tagDownload ≠ c.tagRead ∧
      c.tagUpload ∉ c.workerTags ∧ c.tagDownload ∉ c.workerTags ∧ c.tagRead ∉ c.workerTags := by
  have hn := nodup_of_valid hc
  simp only [Cfg.tags, List.nodup_cons, List.mem_cons, not_or] at hn
  obtain ⟨⟨hud, hur, hu⟩, ⟨hdr, hd⟩, hr, -⟩ := hn
  exact ⟨hud, hur, hdr, hu, hd, hr⟩

theorem decodeIdle_upload {c : Cfg} {w : Word} (h : wordTag w = c.tagUpload) :
    decodeIdle c w = .upload (wordParam w) :=
  if_pos h

theorem decodeIdle_download {c : Cfg} {w : Word} (hc : c.valid = true) (h : wordTag w = c.tagDownload) :
    decodeIdle c w = .download (wordParam w) := by
  obtain ⟨hud, -⟩ := transferTags_distinct hc
  rw [decodeIdle, h, if_neg hud.symm, if_pos rfl]

theorem decodeIdle_read {c : Cfg} {w : Word} (hc : c.valid = true) (h : wordTag w = c.tagRead) :
    decodeIdle c w = .read (wordParam w) := by
  obtain ⟨-, hur, hdr, -⟩ := transferTags_distinct hc
  rw [decodeIdle, h, if_neg hur.symm, if_neg hdr.symm, if_pos rfl]

theorem mem_workerTags_of_workerOp {c : Cfg} {t : Byte} {p : Param} {i : Instr} (h : workerOp c t p = some i) :
    t ∈ c.workerTags := by
  by_contra hno
  cases h.symm.trans (workerOp_eq_none.2 hno)

/-- `Idle` reads a word with a worker tag by the worker dispatch (R82). -/
theorem decodeIdle_of_workerOp {c : Cfg} {w : Word} {i : Instr} (hc : c.valid = true)
    (h : workerOp c (wordTag w) (wordParam w) = some i) : decodeIdle c w = i := by
  obtain ⟨-, -, -, hu, hd, hr⟩ := transferTags_distinct hc
  have hne : ∀ t, t ∉ c.workerTags → wordTag w ≠ t := fun _ ht he => ht (he ▸ mem_workerTags_of_workerOp h)
  rw [decodeIdle, if_neg (hne _ hu), if_neg (hne _ hd), if_neg (hne _ hr), h]

/-- A word with none of the fifteen tags is NOP or INVALID (R82, R89). -/
theorem decodeIdle_of_not_mem_tags {c : Cfg} {w : Word} (h : wordTag w ∉ c.tags) :
    decodeIdle c w = if w = c.nopWord then .nop else .invalid w := by
  simp only [Cfg.tags, List.mem_cons, not_or] at h
  obtain ⟨hu, hd, hr, hno⟩ := h
  rw [decodeIdle, if_neg hu, if_neg hd, if_neg hr, workerOp_eq_none.2 hno]

/-- All that a word can be in `Idle`, under every configuration (R82). -/
theorem decodeIdle_cases (c : Cfg) (w : Word) :
    (wordTag w = c.tagUpload ∧ decodeIdle c w = .upload (wordParam w)) ∨
    (wordTag w = c.tagDownload ∧ decodeIdle c w = .download (wordParam w)) ∨
    (wordTag w = c.tagRead ∧ decodeIdle c w = .read (wordParam w)) ∨
    workerOp c (wordTag w) (wordParam w) = some (decodeIdle c w) ∨
    (w = c.nopWord ∧ decodeIdle c w = .nop) ∨
    (isInvalidWord c w = true ∧ decodeIdle c w = .invalid w) := by
  by_cases hu : wordTag w = c.tagUpload
  · exact .inl ⟨hu, decodeIdle_upload hu⟩
  by_cases hd : wordTag w = c.tagDownload
  · exact .inr (.inl ⟨hd, by rw [decodeIdle, if_neg hu, if_pos hd]⟩)
  by_cases hr : wordTag w = c.tagRead
  · exact .inr (.inr (.inl ⟨hr, by rw [decodeIdle, if_neg hu, if_neg hd, if_pos hr]⟩))
  cases hop : workerOp c (wordTag w) (wordParam w) with
  | some i => exact .inr (.inr (.inr (.inl (by rw [decodeIdle, if_neg hu, if_neg hd, if_neg hr, hop]))))
  | none =>
    have hno : wordTag w ∉ c.tags := by simpa [Cfg.tags, hu, hd, hr] using workerOp_eq_none.1 hop
    rw [decodeIdle_of_not_mem_tags hno]
    by_cases hw : w = c.nopWord
    · exact .inr (.inr (.inr (.inr (.inl ⟨hw, if_pos hw⟩))))
    · exact .inr (.inr (.inr (.inr (.inr ⟨isInvalidWord_iff.2 ⟨hno, hw⟩, if_neg hw⟩))))

/-- The sequencer's default arm is read from every other tag (R131, R187). -/
theorem decodeWorker_of_not_mem {c : Cfg} {w : Word} (h : wordTag w ∉ c.workerTags) :
    decodeWorker c w = .unrecognisedWorker (wordTag w) (wordParam w) := by
  rw [decodeWorker, workerOp_eq_none.2 h]

/-! ### Decode and encode agree -/

/-- Settles O1: by the instruction, each class of them read by the equation for its tag. -/
theorem decodeOfEncode : Obligations.DecodeOfEncode := by
  intro c hc i hwf
  by_cases hw : isWorkerCommand i = true
  · rw [decodeContext_of_isWorkerCommand hw]
    exact decodeIdle_of_workerOp hc (workerOp_encode hc hw)
  cases i with
  | nop => exact (decodeIdle_of_not_mem_tags (nop_not_tag hc)).trans (if_pos rfl)
  | upload p => exact (decodeIdle_upload (wordTag_commandWord _ p)).trans (congrArg _ (wordParam_commandWord _ p))
  | download p => exact (decodeIdle_download hc (wordTag_commandWord _ p)).trans (congrArg _ (wordParam_commandWord _ p))
  | read p => exact (decodeIdle_read hc (wordTag_commandWord _ p)).trans (congrArg _ (wordParam_commandWord _ p))
  | invalid w =>
    obtain ⟨htag, hnop⟩ := isInvalidWord_iff.1 hwf
    exact (decodeIdle_of_not_mem_tags htag).trans (if_neg hnop)
  | unrecognisedWorker t p =>
    have htag : wordTag (commandWord t p) ∉ c.workerTags := by
      rw [wordTag_commandWord]
      exact isUnrecognisedTag_iff.1 hwf
    exact (decodeWorker_of_not_mem htag).trans (by rw [wordTag_commandWord, wordParam_commandWord])
  | uploadingStep w | downloadingStep w | readingStep w | workerBusyStep w => rfl
  | _ => exact absurd rfl hw

/-- What `Idle` reads is well formed and encodes to the word it was read from (R82, R89). -/
theorem encode_decodeIdle (c : Cfg) (w : Word) :
    encode c (decodeIdle c w) = w ∧ (decodeIdle c w).wellFormed c = true := by
  obtain ⟨ht, hi⟩ | ⟨ht, hi⟩ | ⟨ht, hi⟩ | hop | ⟨hw, hi⟩ | ⟨hw, hi⟩ := decodeIdle_cases c w
  · exact hi ▸ ⟨commandWord_of_wordTag ht, rfl⟩
  · exact hi ▸ ⟨commandWord_of_wordTag ht, rfl⟩
  · exact hi ▸ ⟨commandWord_of_wordTag ht, rfl⟩
  · exact ⟨encode_of_workerOp hop, wellFormed_of_isWorkerCommand c (isWorkerCommand_of_workerOp hop)⟩
  · exact hi ▸ ⟨hw.symm, rfl⟩
  · exact hi ▸ ⟨rfl, hw⟩

/-- What the sequencer reads is well formed and encodes to the latched command (R131, R187). -/
theorem encode_decodeWorker (c : Cfg) (w : Word) :
    encode c (decodeWorker c w) = w ∧ (decodeWorker c w).wellFormed c = true := by
  cases hop : workerOp c (wordTag w) (wordParam w) with
  | some i =>
    rw [decodeWorker_of_workerOp hop]
    exact ⟨encode_of_workerOp hop, wellFormed_of_isWorkerCommand c (isWorkerCommand_of_workerOp hop)⟩
  | none =>
    have hno := workerOp_eq_none.1 hop
    rw [decodeWorker_of_not_mem hno]
    exact ⟨commandWord_fields w, isUnrecognisedTag_iff.2 hno⟩

/-- Settles O2: by the place; a continuation step is the word itself. -/
theorem encodeOfDecode : Obligations.EncodeOfDecode := by
  intro c ctx w
  cases ctx with
  | sequencer => exact encode_decodeWorker c w
  | incoming st =>
    cases st with
    | idle => exact encode_decodeIdle c w
    | uploading | downloading | reading | workerBusy => exact ⟨rfl, rfl⟩

/-- Settles O3: on a worker tag both agents read what the worker dispatch answers. -/
theorem sequencerReadsTheDispatchedCommand : Obligations.SequencerReadsTheDispatchedCommand := by
  intro c hc w htag
  cases hop : workerOp c (wordTag w) (wordParam w) with
  | none => exact absurd (List.contains_iff_mem.1 htag) (workerOp_eq_none.1 hop)
  | some i =>
    rw [decodeWorker_of_workerOp hop]
    exact ⟨decodeIdle_of_workerOp hc hop, isWorkerCommand_of_workerOp hop⟩

/-- Settles O4: ten closed words, each read by evaluation. -/
theorem tableWordsDecode : Obligations.TableWordsDecode := by
  refine ⟨?_, ?_, ?_, ?_, ?_, ?_, ?_, ?_, ?_, ?_⟩ <;> decide

end Sys2Proof.Proofs

/-! PROOFS of the family `40_transfer_commands.md`, part 1: what the FSM executes by itself, one exchange at a time. Each of
its meanings has an equation `exec_…` with the whole next state, and `incomingInstr_…` says which word selects it. -/

namespace Sys2Proof.Proofs

open Sys2Proof.Machine Sys2Proof.Laws

/-! ### What `STATE` makes of an incoming word (R81, R100) -/

section Incoming

variable {s : State} (rx : Word)

theorem incomingInstr_idle (hs : s.state = .idle) : incomingInstr rx s = decodeIdle s.cfg rx := by
  rw [incomingInstr, hs]; rfl

theorem incomingInstr_uploading (hs : s.state = .uploading) : incomingInstr rx s = .uploadingStep rx := by
  rw [incomingInstr, hs]; rfl

theorem incomingInstr_downloading (hs : s.state = .downloading) : incomingInstr rx s = .downloadingStep rx := by
  rw [incomingInstr, hs]; rfl

theorem incomingInstr_reading (hs : s.state = .reading) : incomingInstr rx s = .readingStep rx := by
  rw [incomingInstr, hs]; rfl

theorem incomingInstr_workerBusy (hs : s.state = .workerBusy) : incomingInstr rx s = .workerBusyStep rx := by
  rw [incomingInstr, hs]; rfl

/-- Outside `Idle` no word is read as NOP (R102). -/
theorem incomingInstr_ne_nop (hs : s.state ≠ .idle) : incomingInstr rx s ≠ .nop := by
  cases hst : s.state with
  | idle => exact absurd hst hs
  | uploading => rw [incomingInstr_uploading rx hst]; nofun
  | downloading => rw [incomingInstr_downloading rx hst]; nofun
  | reading => rw [incomingInstr_reading rx hst]; nofun
  | workerBusy => rw [incomingInstr_workerBusy rx hst]; nofun

end Incoming

theorem decodeIdle_nopWord {c : Cfg} (hc : c.valid = true) : decodeIdle c c.nopWord = .nop :=
  (decodeIdle_of_not_mem_tags (nop_not_tag hc)).trans (if_pos rfl)

theorem decodeIdle_invalid {c : Cfg} {w : Word} (htag : wordTag w ∉ c.tags) (hnop : w ≠ c.nopWord) :
    decodeIdle c w = .invalid w :=
  (decodeIdle_of_not_mem_tags htag).trans (if_neg hnop)

/-- A word with a worker tag is read in `Idle` as one of the twelve commands, the one whose word it is (R82, R106). -/
theorem decodeIdle_worker {c : Cfg} {w : Word} (hc : c.valid = true) (h : wordTag w ∈ c.workerTags) :
    isWorkerCommand (decodeIdle c w) = true ∧ encode c (decodeIdle c w) = w := by
  refine ⟨?_, (encode_decodeIdle c w).1⟩
  cases hop : workerOp c (wordTag w) (wordParam w) with
  | none => exact absurd h (workerOp_eq_none.1 hop)
  | some i => exact decodeIdle_of_workerOp hc hop ▸ isWorkerCommand_of_workerOp hop

/-! ### The whole next state of each meaning (R102 to R111) -/

section Exec

variable (s : State)

theorem exec_nop : exec .nop s = .next { s with txd := s.cfg.idleWord } := rfl

theorem exec_upload (p : Param) :
    exec (.upload p) s = .next { s with state := .uploading, len := p.setWidth 32, off := 0, txd := s.cfg.idleWord } := rfl

/-- The prefetch of `Buf32[0]` is inside the Buffer, so DOWNLOAD does not fault (R104). -/
theorem exec_download (p : Param) :
    exec (.download p) s =
      .next { s with state := .downloading, len := p.setWidth 32, off := 1, txd := buf32 s.buf 0 } := by
  rw [exec, execDownload, loadBuf32_zero]
  rfl

theorem exec_read (p : Param) : exec (.read p) s = .next { s with txd := s.wcr, state := .reading } := rfl

theorem exec_invalid (w : Word) :
    exec (.invalid w) s =
      .next { s with history := .diag (.invalidCommand w) :: s.history, txd := s.cfg.idleWord } := rfl

theorem exec_readingStep (w : Word) :
    exec (.readingStep w) s = .next { s with state := .idle, txd := s.cfg.idleWord } := rfl

theorem exec_workerBusyStep (w : Word) : exec (.workerBusyStep w) s = .next { s with txd := s.cfg.busyWord } := rfl

variable {s}

/-- The twelve commands differ only in the word that is latched, which is the whole of it (R106). -/
theorem exec_worker_idle {i : Instr} {w : Word} (hi : isWorkerCommand i = true) (hs : s.state = .idle)
    (hw : encode s.cfg i = w) :
    exec i s = .next { s with wcr := w, state := .workerBusy, txd := s.cfg.busyWord } :=
  hw ▸ exec_dispatch hi (by simp [hs])

theorem exec_uploadingStep_inside (w : Word) (hs : s.state = .uploading) (hlt : s.off < s.len)
    (hin : s.off.toNat < bufWords) :
    exec (.uploadingStep w) s = .next { s with
      buf := setBuf32 s.buf s.off.toNat w
      off := s.off + 1
      state := if s.off + 1 < s.len then .uploading else .idle
      txd := s.cfg.idleWord } := by
  rw [exec, execUploadingStep, if_pos hlt, storeBuf32_inside _ _ _ hin]
  by_cases hmore : s.off + 1 < s.len
  · rw [if_pos hmore, ← hs]
    exact uploadingEnd_more hmore
  · rw [if_neg hmore]
    exact uploadingEnd_done hmore

theorem exec_uploadingStep_outside (w : Word) (hlt : s.off < s.len) (hout : ¬ s.off.toNat < bufWords) :
    exec (.uploadingStep w) s = .fault (.bufferRange s.off.toNat
      { s with fsmFault := some s.off.toNat, faults := s.off.toNat :: s.faults }) := by
  rw [exec, execUploadingStep, if_pos hlt]
  exact storeBuf32_outside w s _ hout

theorem exec_uploadingStep_done (w : Word) (hdone : ¬ s.off < s.len) :
    exec (.uploadingStep w) s = .next { s with state := .idle, txd := s.cfg.idleWord } := by
  rw [exec, execUploadingStep, if_neg hdone]
  exact uploadingEnd_done hdone

theorem exec_downloadingStep_inside (w : Word) (hlt : s.off < s.len) (hin : s.off.toNat < bufWords) :
    exec (.downloadingStep w) s = .next { s with txd := buf32 s.buf s.off.toNat, off := s.off + 1 } := by
  rw [exec, execDownloadingStep, if_pos hlt]
  exact loadBuf32_inside s _ hin

theorem exec_downloadingStep_outside (w : Word) (hlt : s.off < s.len) (hout : ¬ s.off.toNat < bufWords) :
    exec (.downloadingStep w) s = .fault (.bufferRange s.off.toNat
      { s with fsmFault := some s.off.toNat, faults := s.off.toNat :: s.faults }) := by
  rw [exec, execDownloadingStep, if_pos hlt]
  exact loadBuf32_outside s _ hout

theorem exec_downloadingStep_done (w : Word) (hdone : ¬ s.off < s.len) :
    exec (.downloadingStep w) s = .next { s with state := .idle, txd := s.cfg.idleWord } := by
  rw [exec, execDownloadingStep, if_neg hdone]
  rfl

end Exec

/-! ### Where an exchange in `Idle` leads -/

/-- Only a transfer can fault, so an exchange in `Idle` has a next state. -/
theorem FsmMove.next_of_idle {rx : Word} {u : State} {r : Result} (h : FsmMove rx u r) (hs : u.state = .idle) :
    ∃ t, r = .next t := by
  cases h with
  | faults hst _ _ => obtain hst | hst := hst <;> cases hs.symm.trans hst
  | _ => exact ⟨_, rfl⟩

/-- In `Idle` the next `STATE` is the table's, which looks at the word's tag only (R112). -/
theorem exec_idle_state {s : State} (rx : Word) (hs : s.state = .idle) :
    ∃ t, exec (incomingInstr rx s) s = .next t ∧ t.state = idleTarget s.cfg rx := by
  have hm := fsmMove rx s
  obtain ⟨t, ht⟩ := hm.next_of_idle hs
  refine ⟨t, ht, (hm.state_eq (.inl ht)).trans ?_⟩
  rw [fsmTarget, hs]

theorem idleTarget_congr {c : Cfg} {w w' : Word} (h : wordTag w = wordTag w') : idleTarget c w = idleTarget c w' := by
  simp only [idleTarget, h]

/-! ### The statements about one exchange -/

/-- Settles O5. -/
theorem topByteDecidesNextState : Obligations.TopByteDecidesNextState := by
  intro s w w' hs htag
  obtain ⟨t, ht, hst⟩ := exec_idle_state w hs
  obtain ⟨t', ht', hst'⟩ := exec_idle_state w' hs
  exact ⟨t, t', ht, ht', by rw [hst, hst', idleTarget_congr htag]⟩

/-- Settles O6. -/
theorem nopEmitsIdle : Obligations.NopEmitsIdle := fun s =>
  ⟨exec_nop s, fun hc hs => (incomingInstr_idle _ hs).trans (decodeIdle_nopWord hc),
    fun hs => ⟨incomingInstr_workerBusy _ hs, exec_workerBusyStep s _⟩, incomingInstr_uploading _,
    incomingInstr_downloading _, incomingInstr_reading _, incomingInstr_ne_nop _⟩

/-- Settles O7. -/
theorem uploadOpensTransfer : Obligations.UploadOpensTransfer := fun s rx =>
  ⟨exec_upload s, fun hs htag => (incomingInstr_idle rx hs).trans (decodeIdle_upload htag)⟩

/-- Settles O8. -/
theorem downloadPrefetchesFirstWord : Obligations.DownloadPrefetchesFirstWord := fun s rx =>
  ⟨exec_download s, fun hc hs htag => (incomingInstr_idle rx hs).trans (decodeIdle_download hc htag)⟩

/-- Settles O9. -/
theorem readEmitsWcr : Obligations.ReadEmitsWcr := fun s rx =>
  ⟨exec_read s, fun hc hs htag => ⟨_, (incomingInstr_idle rx hs).trans (decodeIdle_read hc htag)⟩⟩

/-- Settles O10: a word with a worker tag is the word of the command it is read as, and that word is latched. -/
theorem workerCommandIsDispatched : Obligations.WorkerCommandIsDispatched := by
  refine ⟨fun i s hi hs => exec_worker_idle hi hs rfl, fun s rx hc hs htag => ?_⟩
  obtain ⟨hi, hword⟩ := decodeIdle_worker hc (List.contains_iff_mem.1 htag)
  refine ⟨_, ?_, rfl, fun hf => by simp [sequencerEnabled, hf]⟩
  rw [incomingInstr_idle rx hs, exec_worker_idle hi hs hword]

/-- Settles O11: under `CFG0` neither sentinel's top byte is a tag. -/
theorem invalidWordIsLoggedAndIgnored : Obligations.InvalidWordIsLoggedAndIgnored :=
  ⟨fun s w => ⟨fun hs htag hnop => (incomingInstr_idle w hs).trans (decodeIdle_invalid htag hnop), exec_invalid s w⟩,
    decodeIdle_invalid (by decide) (by decide), decodeIdle_invalid (by decide) (by decide)⟩

/-- Settles O12. -/
theorem uploadingStepResult : Obligations.UploadingStepResult := fun _ w hs =>
  ⟨incomingInstr_uploading w hs, exec_uploadingStep_inside w hs,
    fun hlt hout => exec_uploadingStep_outside w hlt (Nat.not_lt.2 hout), exec_uploadingStep_done w⟩

/-- Settles O14. -/
theorem downloadingStepResult : Obligations.DownloadingStepResult := fun _ w =>
  ⟨incomingInstr_downloading w, exec_downloadingStep_inside w,
    fun hlt hout => exec_downloadingStep_outside w hlt (Nat.not_lt.2 hout), exec_downloadingStep_done w⟩

/-- Settles O15. -/
theorem readingStepReturnsToIdle : Obligations.ReadingStepReturnsToIdle := fun s w =>
  ⟨exec_readingStep s w, incomingInstr_reading w⟩

/-- Settles O16. -/
theorem workerBusyStepAnswersBusy : Obligations.WorkerBusyStepAnswersBusy := fun s w =>
  ⟨exec_workerBusyStep s w, incomingInstr_workerBusy w⟩

end Sys2Proof.Proofs

/-! PROOFS of the family `40_transfer_commands.md`, part 2: whole sequences of moves. A run is composed step by step and
part by part (`RunsTo.step`, `RunsTo.trans`); the payload of a transfer and the bytes of a CRC are one induction each. -/

namespace Sys2Proof.Proofs

open Sys2Proof.Machine Sys2Proof.Laws

/-! ### Runs -/

/-- `k` steps lead from `s` to `t`, each of them to a next state. `RunsTo.run_eq` ties it to the machine's `run`. -/
inductive RunsTo : Nat → State → State → Prop
  | refl (s : State) : RunsTo 0 s s
  | step {k : Nat} {s t u : State} (h : step s = .next t) (hk : RunsTo k t u) : RunsTo (k + 1) s u

theorem RunsTo.single {s t : State} (h : Machine.step s = .next t) : RunsTo 1 s t := .step h (.refl t)

theorem RunsTo.trans {m k : Nat} {s t u : State} (h : RunsTo m s t) (h' : RunsTo k t u) : RunsTo (m + k) s u := by
  induction h with
  | refl s => rwa [Nat.zero_add]
  | step hs _ ih => rw [Nat.add_right_comm]; exact .step hs (ih h')

theorem RunsTo.run_eq {k : Nat} {s t : State} (h : RunsTo k s t) : core.run k s = .next t := by
  induction h with
  | refl s => rfl
  | @step k s t u hs _ ih =>
    have hcore : core.step s = .next t := hs
    simp only [Host.Core.run, hcore, ih]

/-- A served exchange is the meaning of the word's instruction (R62). -/
theorem step_incoming {s : State} {rx : Word} {rest : List Input} {i : Instr} (hin : s.inputs = .exchange rx :: rest)
    (hf : s.fsmFault = none) (hi : incomingInstr rx s = i) :
    step s = exec i { s with inputs := rest, history := .exch rx s.txd :: s.history } :=
  hi ▸ stepRunsIncomingInstruction s rx rest hin hf

@[simp] theorem receivedWords_exch (rx tx : Word) (h : List Event) :
    receivedWords (.exch rx tx :: h) = tx :: receivedWords h := rfl

/-! ### The exchanges that take one step -/

section Steps

variable {s : State} {rest : List Input}

theorem step_upload {n : Param} (hin : s.inputs = .exchange (commandWord s.cfg.tagUpload n) :: rest)
    (hf : s.fsmFault = none) (hs : s.state = .idle) :
    step s = .next { s with
      state := .uploading, len := n.setWidth 32, off := 0, txd := s.cfg.idleWord, inputs := rest
      history := .exch (commandWord s.cfg.tagUpload n) s.txd :: s.history } := by
  rw [step_incoming hin hf ((incomingInstr_idle _ hs).trans (decodeIdle_upload (wordTag_commandWord _ n))),
    wordParam_commandWord, exec_upload]

theorem step_download {n : Param} (hin : s.inputs = .exchange (commandWord s.cfg.tagDownload n) :: rest)
    (hf : s.fsmFault = none) (hs : s.state = .idle) (hc : s.cfg.valid = true) :
    step s = .next { s with
      state := .downloading, len := n.setWidth 32, off := 1, txd := buf32 s.buf 0, inputs := rest
      history := .exch (commandWord s.cfg.tagDownload n) s.txd :: s.history } := by
  rw [step_incoming hin hf ((incomingInstr_idle _ hs).trans (decodeIdle_download hc (wordTag_commandWord _ n))),
    wordParam_commandWord, exec_download]

theorem step_read {p : Param} (hin : s.inputs = .exchange (commandWord s.cfg.tagRead p) :: rest)
    (hf : s.fsmFault = none) (hs : s.state = .idle) (hc : s.cfg.valid = true) :
    step s = .next { s with
      state := .reading, txd := s.wcr, inputs := rest
      history := .exch (commandWord s.cfg.tagRead p) s.txd :: s.history } := by
  rw [step_incoming hin hf ((incomingInstr_idle _ hs).trans (decodeIdle_read hc (wordTag_commandWord _ p))), exec_read]

theorem step_reading {x : Word} (hin : s.inputs = .exchange x :: rest) (hf : s.fsmFault = none)
    (hs : s.state = .reading) :
    step s = .next { s with
      state := .idle, txd := s.cfg.idleWord, inputs := rest, history := .exch x s.txd :: s.history } := by
  rw [step_incoming hin hf (incomingInstr_reading x hs), exec_readingStep]

/-- Where the count is complete already, the word is dropped (R108, D9). -/
theorem step_uploadingDone {x : Word} (hin : s.inputs = .exchange x :: rest) (hf : s.fsmFault = none)
    (hs : s.state = .uploading) (hdone : ¬ s.off < s.len) :
    step s = .next { s with
      state := .idle, txd := s.cfg.idleWord, inputs := rest, history := .exch x s.txd :: s.history } :=
  (step_incoming hin hf (incomingInstr_uploading x hs)).trans (exec_uploadingStep_done x hdone)

theorem step_downloadingDone {x : Word} (hin : s.inputs = .exchange x :: rest) (hf : s.fsmFault = none)
    (hs : s.state = .downloading) (hdone : ¬ s.off < s.len) :
    step s = .next { s with
      state := .idle, txd := s.cfg.idleWord, inputs := rest, history := .exch x s.txd :: s.history } :=
  (step_incoming hin hf (incomingInstr_downloading x hs)).trans (exec_downloadingStep_done x hdone)

theorem step_nop (hin : s.inputs = .exchange s.cfg.nopWord :: rest) (hf : s.fsmFault = none) (hs : s.state = .idle)
    (hc : s.cfg.valid = true) :
    step s = .next { s with
      txd := s.cfg.idleWord, inputs := rest, history := .exch s.cfg.nopWord s.txd :: s.history } := by
  rw [step_incoming hin hf ((incomingInstr_idle _ hs).trans (decodeIdle_nopWord hc)), exec_nop]

theorem step_dispatch {w : Word} (hin : s.inputs = .exchange w :: rest) (hf : s.fsmFault = none) (hs : s.state = .idle)
    (hc : s.cfg.valid = true) (hw : wordTag w ∈ s.cfg.workerTags) :
    step s = .next { s with
      state := .workerBusy, wcr := w, txd := s.cfg.busyWord, inputs := rest, history := .exch w s.txd :: s.history } := by
  obtain ⟨hi, hword⟩ := decodeIdle_worker hc hw
  exact (step_incoming hin hf (incomingInstr_idle w hs)).trans (exec_worker_idle hi hs hword)

end Steps

/-- Settles O55: the second exchange delivers what READ loaded. -/
theorem readDeliversWcrInTheNextExchange : Obligations.ReadDeliversWcrInTheNextExchange := by
  intro s p x rest hc hs hf hin
  have hrun := RunsTo.step (step_read hin hf hs hc) (.single (step_reading rfl hf rfl))
  exact ⟨_, hrun.run_eq, rfl, rfl, rfl, rfl, rfl⟩

/-! ### The payload of an upload -/

/-- Write the words `ws` into the Buffer from `Buf32[i]` on, in ascending order (R108). -/
def setWords (m : Memory) (i : Nat) : List Word → Memory
  | [] => m
  | w :: ws => setWords (setBuf32 m i w) (i + 1) ws

/-- The `k` words of the Buffer from `Buf32[i]` on. -/
def wordsFrom (m : Memory) (i k : Nat) : List Word := (List.range' i k).map (buf32 m)

theorem wordsFrom_succ (m : Memory) (i k : Nat) : wordsFrom m i (k + 1) = buf32 m i :: wordsFrom m (i + 1) k := rfl

/-- Words written further on leave a word as it was. -/
theorem buf32_setWords_below {m : Memory} {i j : Nat} (ws : List Word) (hm : Memory.wf m = true)
    (hb : i + ws.length ≤ bufWords) (hj : j < i) : buf32 (setWords m i ws) j = buf32 m j := by
  induction ws generalizing m i with
  | nil => rfl
  | cons w ws ih =>
    rw [List.length_cons] at hb
    have hi : i < bufWords := by omega
    rw [setWords, ih (wf_setBuf32 w hm hi) (by omega) (by omega), buf32_setBuf32_other w hm hi (by omega)]

/-- The words written are the words read back. -/
theorem wordsFrom_setWords {m : Memory} {i : Nat} (ws : List Word) (hm : Memory.wf m = true)
    (hb : i + ws.length ≤ bufWords) : wordsFrom (setWords m i ws) i ws.length = ws := by
  induction ws generalizing m i with
  | nil => rfl
  | cons w ws ih =>
    rw [List.length_cons] at hb
    have hi : i < bufWords := by omega
    have hm' := wf_setBuf32 (i := i) w hm hi
    rw [List.length_cons, wordsFrom_succ, setWords, ih hm' (by omega),
      buf32_setWords_below ws hm' (by omega) (Nat.lt_succ_self i), buf32_setBuf32_same w hm hi]

/-- What the payload `ws` of an upload leaves: the block is in `Idle`, with the words in the Buffer. -/
structure Uploaded (s : State) (ws : List Word) (rest : List Input) (t : State) : Prop where
  state : t.state = .idle
  inputs : t.inputs = rest
  cfg : t.cfg = s.cfg
  fsmFault : t.fsmFault = none
  buf : t.buf = setWords s.buf s.off.toNat ws

/-- The payload of an upload, exactly as many words as the count still asks for (R108). -/
theorem runsTo_uploadingSteps (ws : List Word) {s : State} {rest : List Input} (hin : s.inputs = hostSends ws ++ rest)
    (hf : s.fsmFault = none) (hst : s.state = if s.off < s.len then .uploading else .idle)
    (hlen : s.off.toNat + ws.length = s.len.toNat) (hb : s.len.toNat ≤ bufWords) :
    ∃ t, RunsTo ws.length s t ∧ Uploaded s ws rest t := by
  induction ws generalizing s with
  | nil =>
    have hdone : ¬ s.off < s.len := by
      rw [BitVec.lt_def, ← hlen]
      simp
    exact ⟨s, .refl s, { state := hst.trans (if_neg hdone), inputs := hin, cfg := rfl, fsmFault := hf, buf := rfl }⟩
  | cons w ws ih =>
    rw [List.length_cons] at hlen
    have hlt : s.off < s.len := by rw [BitVec.lt_def]; omega
    have hoff : s.off.toNat < bufWords := by omega
    have hup : s.state = .uploading := hst.trans (if_pos hlt)
    have hstep := (step_incoming hin hf (incomingInstr_uploading w hup)).trans
      (exec_uploadingStep_inside w hup hlt hoff)
    have hsucc := off_succ_toNat hoff
    obtain ⟨t, hrun, ht⟩ := ih (s := { s with
        buf := setBuf32 s.buf s.off.toNat w
        off := s.off + 1
        state := if s.off + 1 < s.len then .uploading else .idle
        txd := s.cfg.idleWord
        inputs := hostSends ws ++ rest
        history := .exch w s.txd :: s.history }) rfl hf rfl (by rw [hsucc, ← hlen]; omega) hb
    exact ⟨t, .step hstep hrun, { ht with buf := by rw [ht.buf, hsucc, setWords] }⟩

/-! ### The words of a download -/

/-- The rest of a download: `TXD` holds the word before `OFF`, and each exchange delivers the next one; the last leads back
to `Idle` (R109). -/
theorem runsTo_downloadingSteps (x : Word) (xs : List Word) {s : State} (hin : s.inputs = hostSends (x :: xs))
    (hf : s.fsmFault = none) (hst : s.state = .downloading) {i : Nat} (hoff : s.off.toNat = i + 1)
    (htxd : s.txd = buf32 s.buf i) (hlen : i + 1 + xs.length = s.len.toNat) (hb : s.len.toNat ≤ bufWords) :
    ∃ t, RunsTo (xs.length + 1) s t ∧ t.state = .idle ∧ t.inputs = [] ∧
      receivedWords t.history = (wordsFrom s.buf i (xs.length + 1)).reverse ++ receivedWords s.history := by
  induction xs generalizing s x i with
  | nil =>
    have hdone : ¬ s.off < s.len := by rw [BitVec.lt_def, hoff, ← hlen]; simp
    refine ⟨_, .single (step_downloadingDone hin hf hst hdone), rfl, rfl, ?_⟩
    rw [receivedWords_exch, htxd]
    rfl
  | cons y ys ih =>
    rw [List.length_cons] at hlen
    have hlt : s.off < s.len := by rw [BitVec.lt_def]; omega
    have hinside : s.off.toNat < bufWords := by omega
    have hstep := (step_incoming hin hf (incomingInstr_downloading x hst)).trans
      (exec_downloadingStep_inside x hlt hinside)
    obtain ⟨t, hrun, hidle, hinputs, hrecv⟩ := ih y (i := i + 1) (s := { s with
        txd := buf32 s.buf s.off.toNat
        off := s.off + 1
        inputs := hostSends (y :: ys)
        history := .exch x s.txd :: s.history }) rfl hf hst ((off_succ_toNat hinside).trans (congrArg _ hoff))
      (congrArg (buf32 s.buf) hoff) (by rw [← hlen]; omega) hb
    refine ⟨t, .step hstep hrun, hidle, hinputs, ?_⟩
    rw [hrecv, receivedWords_exch, htxd, List.length_cons, wordsFrom_succ s.buf i, List.reverse_cons,
      List.append_assoc, List.singleton_append]

/-! ### The round trip (R113) -/

/-- UPLOAD of `N` words with its payload (R103, R108). -/
theorem runsTo_upload {s : State} {ws : List Word} {n : Param} {rest : List Input} (hs : s.state = .idle)
    (hf : s.fsmFault = none) (hlen : ws.length = n.toNat) (hpos : 1 ≤ n.toNat) (hb : n.toNat ≤ bufWords)
    (hin : s.inputs = hostSends (commandWord s.cfg.tagUpload n :: ws) ++ rest) :
    ∃ t, RunsTo (n.toNat + 1) s t ∧ t.state = .idle ∧ t.inputs = rest ∧ t.cfg = s.cfg ∧ t.fsmFault = none ∧
      t.buf = setWords s.buf 0 ws := by
  have hcount : (n.setWidth 32).toNat = n.toNat := BitVec.toNat_setWidth_of_le (by decide)
  obtain ⟨t, hrun, ht⟩ := runsTo_uploadingSteps ws (rest := rest) (s := { s with
      state := .uploading, len := n.setWidth 32, off := 0, txd := s.cfg.idleWord, inputs := hostSends ws ++ rest
      history := .exch (commandWord s.cfg.tagUpload n) s.txd :: s.history }) rfl hf
    (if_pos (by rw [BitVec.lt_def, hcount]; exact hpos)).symm (by rw [hcount, hlen]; simp) (by rw [hcount]; exact hb)
  exact ⟨t, hlen ▸ .step (step_upload hin hf hs) hrun, ht.state, ht.inputs, ht.cfg, ht.fsmFault, ht.buf⟩

/-- DOWNLOAD of `N` words: the `N` exchanges after the command deliver the first `N` words of the Buffer (R104, R109). -/
theorem runsTo_download {s : State} {xs : List Word} {n : Param} (hc : s.cfg.valid = true) (hs : s.state = .idle)
    (hf : s.fsmFault = none) (hlen : xs.length = n.toNat) (hpos : 1 ≤ n.toNat) (hb : n.toNat ≤ bufWords)
    (hin : s.inputs = hostSends (commandWord s.cfg.tagDownload n :: xs)) :
    ∃ t old, RunsTo (n.toNat + 1) s t ∧ t.state = .idle ∧ t.inputs = [] ∧
      receivedWords t.history = (wordsFrom s.buf 0 n.toNat).reverse ++ old := by
  have hcount : (n.setWidth 32).toNat = n.toNat := BitVec.toNat_setWidth_of_le (by decide)
  cases xs with
  | nil => rw [← hlen] at hpos; cases hpos
  | cons x xs =>
    rw [List.length_cons] at hlen
    obtain ⟨t, hrun, hidle, hinputs, hrecv⟩ := runsTo_downloadingSteps x xs (i := 0) (s := { s with
        state := .downloading, len := n.setWidth 32, off := 1, txd := buf32 s.buf 0, inputs := hostSends (x :: xs)
        history := .exch (commandWord s.cfg.tagDownload n) s.txd :: s.history }) rfl hf rfl rfl rfl
      (by rw [hcount, ← hlen]; omega) (by rw [hcount]; exact hb)
    rw [hlen] at hrun hrecv
    exact ⟨t, _, RunsTo.step (step_download hin hf hs hc) hrun, hidle, hinputs, hrecv⟩

/-- Settles O54: the upload leaves the words in the Buffer, where the download finds them; with a count of 0 each command's
one exchange finds `OFF` at or past `LEN`. -/
theorem uploadThenDownloadReturnsTheWords : Obligations.UploadThenDownloadReturnsTheWords := by
  refine ⟨fun s ws xs n hc hs hf hws hxs hpos hb hwf hin => ?_, fun s x y hc hs hf hin => ?_⟩
  · obtain ⟨t, hrun, hidle, hinputs, hcfg, hfault, hbuf⟩ :=
      runsTo_upload (rest := hostSends (commandWord s.cfg.tagDownload n :: xs)) hs hf hws hpos hb
        (by rw [hin]; simp [hostSends])
    rw [← hcfg] at hc hinputs
    obtain ⟨u, old, hrun', hidle', hinputs', hrecv⟩ := runsTo_download hc hidle hfault hxs hpos hb hinputs
    have hsteps : n.toNat + 1 + (n.toNat + 1) = 2 * n.toNat + 2 := by omega
    refine ⟨u, (hsteps ▸ hrun.trans hrun').run_eq, hidle', hinputs', ?_⟩
    have hback := wordsFrom_setWords (i := 0) ws hwf (by rw [hws, Nat.zero_add]; exact hb)
    rw [hrecv, hbuf, ← hws, hback, List.take_left' List.length_reverse]
  · have hpast : ¬ (1 : Word) < 0 := by decide
    have hrun := RunsTo.step (step_upload hin hf hs) <| .step (step_uploadingDone rfl hf rfl (BitVec.lt_irrefl 0)) <|
      .step (step_download rfl hf rfl hc) <| .single (step_downloadingDone rfl hf rfl hpast)
    exact ⟨_, hrun.run_eq, rfl, rfl, rfl, rfl⟩

/-! ### The sequencer's turns -/

/-- The moves give the sequencer `k` turns in a row and are `rest` then; an empty list gives it every turn (R269, log 2). -/
def TurnsThen (k : Nat) (moves rest : List Input) : Prop :=
  moves = List.replicate k .sequencer ++ rest ∨ (moves = [] ∧ rest = [])

theorem TurnsThen.eq_of_zero {moves rest : List Input} (h : TurnsThen 0 moves rest) : moves = rest := by
  obtain h | ⟨rfl, rfl⟩ := h
  · exact h
  · rfl

/-- The first of the turns. -/
theorem TurnsThen.first {k : Nat} {moves rest : List Input} (h : TurnsThen (k + 1) moves rest) :
    ∃ moves', (moves = .sequencer :: moves' ∨ (moves = [] ∧ moves' = [])) ∧ TurnsThen k moves' rest := by
  obtain h | ⟨rfl, rfl⟩ := h
  · exact ⟨_, .inl h, .inl rfl⟩
  · exact ⟨[], .inr ⟨rfl, rfl⟩, .inr ⟨rfl, rfl⟩⟩

/-- The turns of a run, and then those of the run that goes on from there. -/
theorem TurnsThen.split {k m : Nat} {moves rest : List Input} (h : TurnsThen (k + m) moves rest) :
    ∃ mid, TurnsThen k moves mid ∧ TurnsThen m mid rest := by
  obtain rfl | ⟨rfl, rfl⟩ := h
  · exact ⟨_, .inl (by rw [List.replicate_add, List.append_assoc]), .inl rfl⟩
  · exact ⟨[], .inr ⟨rfl, rfl⟩, .inr ⟨rfl, rfl⟩⟩

section Turn

variable {s : State} {moves : List Input} {cmd : Word} {l : SeqLocals}

theorem sequencerInstr_running {pos : SeqPos} (hq : s.seq = .running cmd pos l) :
    sequencerInstr s = decodeWorker s.cfg cmd := by
  rw [sequencerInstr, latchedCommand, hq]

theorem sequencerInstr_rest (hq : s.seq = .idle) : sequencerInstr s = decodeWorker s.cfg s.wcr := by
  rw [sequencerInstr, latchedCommand, hq]

variable (hin : s.inputs = .sequencer :: moves ∨ (s.inputs = [] ∧ moves = [])) (hw : s.state = .workerBusy)
  (hf : s.seqFault = none)

include hin hw hf

/-- A turn of the enabled sequencer is the meaning of the command it works on (R130, R131). -/
theorem step_turn {i : Instr} (hi : sequencerInstr s = i) : step s = exec i (s.withInputs moves) := by
  have hturn : sequencerTurn (s.withInputs moves) = exec i (s.withInputs moves) :=
    hi ▸ sequencerTurn_enabled (s := s.withInputs moves) hw hf
  obtain hin | ⟨hin, rfl⟩ := hin
  · rw [step_sequencer hin, hturn]
  · have hs : s.withInputs [] = s := by rw [← hin]; rfl
    rw [step_nil hin, ← hturn, hs]

theorem step_writeResult (hq : s.seq = .running cmd .writeResult l) :
    step s = .next { s with wcr := l.result, seq := .running cmd .release l, inputs := moves } := by
  rw [step_turn hin hw hf (sequencerInstr_running hq)]
  exact (exec_completion_writes (s := s.withInputs moves) (isSequencerInstr_decodeWorker s.cfg cmd) hw).1 hq

theorem step_release (hq : s.seq = .running cmd .release l) :
    step s = .next { s with state := .idle, seq := .idle, inputs := moves } := by
  rw [step_turn hin hw hf (sequencerInstr_running hq)]
  exact (exec_completion_writes (s := s.withInputs moves) (isSequencerInstr_decodeWorker s.cfg cmd) hw).2 hq

theorem step_crcStart {n : Param} (hq : s.seq = .idle) (hi : decodeWorker s.cfg s.wcr = .crc32 n) :
    step s = .next (crcContinue s.wcr { n := n } ((s.withInputs moves).setAcc crcInit)) := by
  rw [step_turn hin hw hf ((sequencerInstr_rest hq).trans hi)]
  exact exec_crc32_start (s := s.withInputs moves) n hw hq

theorem step_crcByte (hq : s.seq = .running cmd .crcByte l) (hi : decodeWorker s.cfg cmd = .crc32 l.n)
    (hinside : l.i < bufBytes) :
    step s = .next (crcContinue cmd { l with i := l.i + 1 }
      ((s.withInputs moves).setAcc (crcUpdate s.crcacc (buf8 s.buf l.i)))) := by
  rw [step_turn hin hw hf ((sequencerInstr_running hq).trans hi), exec_crc32_micro (s := s.withInputs moves) l.n hw hq]
  exact loadBuf8_inside _ _ hinside

end Turn

/-- The two writes of completion: the result into `WCR`, then `STATE` (R132). -/
theorem runsTo_completion {s : State} {cmd r : Word} {l : SeqLocals} {rest : List Input}
    (hin : TurnsThen 2 s.inputs rest) (hw : s.state = .workerBusy) (hf : s.seqFault = none) :
    RunsTo 2 (s.toResult cmd r l) { s with state := .idle, wcr := r, seq := .idle, inputs := rest } := by
  obtain ⟨moves, hfirst, hin⟩ := hin.first
  obtain ⟨moves', hsecond, hin⟩ := hin.first
  obtain rfl := hin.eq_of_zero
  exact .step (step_writeResult hfirst hw hf rfl) (.single (step_release hsecond hw hf rfl))

/-! ### CRC32 from start to end (R138) -/

/-- The bytes of CRC32, one a turn, from byte `l.i` to the length: the accumulator folds them in ascending order. -/
theorem runsTo_crcBytes (k : Nat) {s : State} {cmd : Word} {l : SeqLocals} {rest : List Input}
    (hin : TurnsThen k s.inputs rest) (hw : s.state = .workerBusy) (hf : s.seqFault = none)
    (hi : decodeWorker s.cfg cmd = .crc32 l.n) (hk : l.i + k = byteLength l.n) (hb : byteLength l.n ≤ bufBytes)
    {acc : Word} (hacc : ((List.range' l.i k).map (buf8 s.buf)).foldl crcUpdate s.crcacc = acc) :
    RunsTo k (crcContinue cmd l s)
      (((s.withInputs rest).setAcc acc).toResult cmd (~~~ acc) { l with i := byteLength l.n }) := by
  induction k generalizing s l with
  | zero =>
    obtain rfl := hin.eq_of_zero
    obtain rfl : s.crcacc = acc := hacc
    rw [crcContinue, if_neg (by omega), ← hk]
    exact .refl _
  | succ k ih =>
    obtain ⟨moves, hfirst, hin⟩ := hin.first
    have hinside : l.i < bufBytes := by omega
    have hsucc : l.i + 1 + k = byteLength l.n := by omega
    rw [crcContinue, if_pos (by omega)]
    exact .step (step_crcByte hfirst hw hf rfl hi hinside) (ih (l := { l with i := l.i + 1 }) hin hw hf hi hsucc hb hacc)

theorem decodeWorker_crc32 {c : Cfg} (hc : c.valid = true) (n : Param) :
    decodeWorker c (commandWord c.tagCrc32 n) = .crc32 n :=
  decodeWorker_of_workerOp (workerOp_encode hc (i := .crc32 n) rfl)

/-- The accumulator over the first `n` bytes, complemented, is their CRC-32 (R138). -/
theorem foldl_crcUpdate_bytes (m : Memory) (n : Nat) :
    ((List.range' 0 n).map (buf8 m)).foldl crcUpdate crcInit = ~~~ crc32 (bufferBytes m n) := by
  rw [crc32, bufferBytes, BitVec.not_not, List.range_eq_range']

/-- The whole operation, from the dispatched command to the release: the start, one turn a byte, and the two writes (R131,
R132, R138). -/
theorem runsTo_crc32 {s : State} {n : Param} {rest : List Input} (hc : s.cfg.valid = true) (hw : s.state = .workerBusy)
    (hq : s.seq = .idle) (hf : s.seqFault = none) (hwcr : s.wcr = commandWord s.cfg.tagCrc32 n)
    (hb : n.toNat ≤ bufBytes) (hin : TurnsThen (n.toNat + 3) s.inputs rest) :
    RunsTo (n.toNat + 3) s { s with
      state := .idle, wcr := crc32 (bufferBytes s.buf n.toNat), seq := .idle
      crcacc := ~~~ crc32 (bufferBytes s.buf n.toNat), inputs := rest } := by
  have hi : decodeWorker s.cfg s.wcr = .crc32 n := hwcr ▸ decodeWorker_crc32 hc n
  obtain ⟨moves, hfirst, hin⟩ := hin.first
  obtain ⟨mid, hbytes, hlast⟩ := hin.split
  have hloop := runsTo_crcBytes n.toNat (s := (s.withInputs moves).setAcc crcInit) (l := { n := n }) hbytes hw hf hi
    (Nat.zero_add _) hb (foldl_crcUpdate_bytes s.buf n.toNat)
  rw [BitVec.not_not] at hloop
  have hend := runsTo_completion (s := (s.withInputs mid).setAcc (~~~ crc32 (bufferBytes s.buf n.toNat))) (cmd := s.wcr)
    (r := crc32 (bufferBytes s.buf n.toNat)) (l := { n := n, i := byteLength n }) hlast hw hf
  exact .step (step_crcStart hfirst hw hf hq hi) (hloop.trans hend)

/-! ### The host's worker sequence (R203) -/

/-- Once the block is in `Idle` again: two NOPs, READ and one more exchange, which delivers the result in `WCR` (R203). -/
theorem RunsTo.fetchResult {k : Nat} {r s : State} {x : Word} (h : RunsTo k r s) (hc : s.cfg.valid = true)
    (hs : s.state = .idle) (hf : s.fsmFault = none)
    (hin : s.inputs = hostSends [s.cfg.nopWord, s.cfg.nopWord, commandWord s.cfg.tagRead 0, x]) :
    ∃ t, RunsTo (k + 4) r t ∧ t.state = .idle ∧ receivedWords t.history =
      s.wcr :: s.cfg.idleWord :: s.cfg.idleWord :: s.txd :: receivedWords s.history := by
  have hrun := RunsTo.step (step_nop hin hf hs hc) <| .step (step_nop rfl hf hs hc) <|
    .step (step_read rfl hf hs hc) <| .single (step_reading rfl hf rfl)
  exact ⟨_, h.trans hrun, rfl, rfl⟩

/-- Settles O56: the operation moves neither `TXD` nor the history, so the first NOP still delivers `BUSY_WORD`; READ loads
the result for the last exchange. -/
theorem workerSequenceReturnsTheCrc : Obligations.WorkerSequenceReturnsTheCrc := by
  intro s n x hc hs hq hf hsf hb hin
  have htag : wordTag (commandWord s.cfg.tagCrc32 n) ∈ s.cfg.workerTags := by
    rw [wordTag_commandWord]
    exact List.mem_cons_self
  have hcmd := step_dispatch hin hf hs hc htag
  have hop := RunsTo.step hcmd (runsTo_crc32 hc rfl hq hsf rfl hb (.inl rfl))
  obtain ⟨t, hrun, hidle, hrecv⟩ := hop.fetchResult hc rfl hf rfl
  exact ⟨t, hrun.run_eq, hidle, hrecv⟩

end Sys2Proof.Proofs

/-! PROOFS of the family `41_worker_crc32.md`, part 1: an exchange does not disturb the sequencer. A micro-step reads neither
`TXD` nor the history, so from two states that differ only there it answers alike: the judgement `Agree`, one lemma per shared
operation and per micro-step. -/

namespace Sys2Proof.Proofs

open Sys2Proof.Machine Sys2Proof.Laws

/-! ### Two states that differ in what an exchange writes -/

/-- `t` is `s` with another `TXD` and another record, in which only the exchanges differ. `sameButForExchanges_of_differ` ties
it to `SameButForExchanges`. -/
inductive DifferInTrace (s : State) : State → Prop
  | intro (tx : Word) (h : List Event) (hev : eventsBesideExchanges s.history = eventsBesideExchanges h) :
      DifferInTrace s { s with txd := tx, history := h }

theorem sameButForExchanges_of_differ {s t : State} (h : DifferInTrace s t) : SameButForExchanges s t := by
  obtain ⟨tx, h, hev⟩ := h
  exact ⟨rfl, hev⟩

theorem eventsBesideExchanges_cons_congr (e : Event) {h h' : List Event}
    (hev : eventsBesideExchanges h = eventsBesideExchanges h') :
    eventsBesideExchanges (e :: h) = eventsBesideExchanges (e :: h') := by
  rw [eventsBesideExchanges, List.filter_cons, ← eventsBesideExchanges, hev, eventsBesideExchanges,
    eventsBesideExchanges, List.filter_cons]

section Differ

variable {s t : State}

/-- An update that neither reads nor writes `TXD` and the history. -/
theorem DifferInTrace.silent (h : DifferInTrace s t) (f : State → State)
    (hf : ∀ tx hs, f { s with txd := tx, history := hs } = { f s with txd := tx, history := hs } := by exact fun _ _ => rfl)
    (hh : (f s).history = s.history := by rfl) : DifferInTrace (f s) (f t) := by
  obtain ⟨tx, hs, hev⟩ := h
  exact hf tx hs ▸ .intro tx hs (hh ▸ hev)

/-- An update that also records one event. -/
theorem DifferInTrace.event (h : DifferInTrace s t) (f : State → State) {e : Event}
    (hf : ∀ tx hs, f { s with txd := tx, history := hs } = { f s with txd := tx, history := e :: hs } := by
      exact fun _ _ => rfl)
    (hh : (f s).history = e :: s.history := by rfl) : DifferInTrace (f s) (f t) := by
  obtain ⟨tx, hs, hev⟩ := h
  exact hf tx hs ▸ .intro tx (e :: hs) (hh ▸ eventsBesideExchanges_cons_congr e hev)

theorem DifferInTrace.toPos (h : DifferInTrace s t) (cmd : Word) (pos : SeqPos) (l : SeqLocals) :
    DifferInTrace (s.toPos cmd pos l) (t.toPos cmd pos l) := h.silent (·.toPos cmd pos l)

theorem DifferInTrace.record (h : DifferInTrace s t) (e : Event) : DifferInTrace (s.record e) (t.record e) :=
  h.event (·.record e)

theorem DifferInTrace.cartRead16 (h : DifferInTrace s t) (a : Word) :
    DifferInTrace (cartRead16 a s) (cartRead16 a t) := h.event (Machine.cartRead16 a) (e := .r16 a (Machine.cartValue16 a s))

theorem DifferInTrace.cartRead8 (h : DifferInTrace s t) (a : Word) :
    DifferInTrace (cartRead8 a s) (cartRead8 a t) := h.event (Machine.cartRead8 a) (e := .r8 a (Machine.cartValue8 a s))

theorem DifferInTrace.cfg (h : DifferInTrace s t) : t.cfg = s.cfg := by cases h; rfl

theorem DifferInTrace.buf (h : DifferInTrace s t) : t.buf = s.buf := by cases h; rfl

theorem DifferInTrace.crcacc (h : DifferInTrace s t) : t.crcacc = s.crcacc := by cases h; rfl

theorem DifferInTrace.cartValue16 (h : DifferInTrace s t) (a : Word) : cartValue16 a t = cartValue16 a s := by
  cases h; rfl

theorem DifferInTrace.cartValue8 (h : DifferInTrace s t) (a : Word) : cartValue8 a t = cartValue8 a s := by
  cases h; rfl

theorem DifferInTrace.saveReadAnswer (h : DifferInTrace s t) : saveReadAnswer t = saveReadAnswer s := by cases h; rfl

theorem DifferInTrace.saveReadBytes (h : DifferInTrace s t) (n : Param) (ans : SaveReadAnswer) :
    saveReadBytes n ans t = saveReadBytes n ans s := by cases h; rfl

theorem DifferInTrace.saveWriteAnswer (h : DifferInTrace s t) : saveWriteAnswer t = saveWriteAnswer s := by cases h; rfl

end Differ

/-! ### Two answers that agree -/

/-- Both answers are a next state, or both the same fault, and the states they leave differ in what an exchange writes. -/
inductive Agree : Result → Result → Prop
  | next {t u : State} (h : DifferInTrace t u) : Agree (.next t) (.next u)
  | fault {t u : State} (i : Nat) (h : DifferInTrace t u) :
      Agree (.fault (.bufferRange i t)) (.fault (.bufferRange i u))

section Shared

variable {s t : State} {cmd : Word} {l : SeqLocals} (h : DifferInTrace s t)

include h

theorem agree_raiseSeq (i : Nat) : Agree (raiseSeq i s) (raiseSeq i t) := .fault i (h.silent (·.stopSeq i))

theorem agree_loadBuf8 {i : Nat} {k k' : Byte → Result} (hk : ∀ b, Agree (k b) (k' b)) :
    Agree (loadBuf8 i s k) (loadBuf8 i t k') := by
  by_cases hi : i < bufBytes
  · rw [loadBuf8_inside s k hi, loadBuf8_inside t k' hi, h.buf]
    exact hk _
  · rw [loadBuf8_outside s k hi, loadBuf8_outside t k' hi]
    exact agree_raiseSeq h i

theorem agree_loadBuf16 {i : Nat} {k k' : Halfword → Result} (hk : ∀ v, Agree (k v) (k' v)) :
    Agree (loadBuf16 i s k) (loadBuf16 i t k') := by
  by_cases hi : i < bufHalfwords
  · rw [loadBuf16_inside s k hi, loadBuf16_inside t k' hi, h.buf]
    exact hk _
  · rw [loadBuf16_outside s k hi, loadBuf16_outside t k' hi]
    exact agree_raiseSeq h i

theorem agree_storeBuf8 {i : Nat} {v : Byte} {k : State → Result}
    (hk : ∀ u u', DifferInTrace u u' → Agree (k u) (k u')) : Agree (storeBuf8 i v s k) (storeBuf8 i v t k) := by
  by_cases hi : i < bufBytes
  · rw [storeBuf8_inside v s k hi, storeBuf8_inside v t k hi]
    exact hk _ _ (h.silent fun u => u.setBuf (setBuf8 u.buf i v))
  · rw [storeBuf8_outside v s k hi, storeBuf8_outside v t k hi]
    exact agree_raiseSeq h i

theorem agree_storeBuf16 {i : Nat} {v : Halfword} {k : State → Result}
    (hk : ∀ u u', DifferInTrace u u' → Agree (k u) (k u')) :
    Agree (storeBuf16 i v s k) (storeBuf16 i v t k) := by
  by_cases hi : i < bufHalfwords
  · rw [storeBuf16_inside v s k hi, storeBuf16_inside v t k hi]
    exact hk _ _ (h.silent fun u => u.setBuf (setBuf16 u.buf i v))
  · rw [storeBuf16_outside v s k hi, storeBuf16_outside v t k hi]
    exact agree_raiseSeq h i

theorem agree_toResult (r : Word) : Agree (.next (s.toResult cmd r l)) (.next (t.toResult cmd r l)) :=
  .next (h.toPos cmd .writeResult { l with result := r })

/-- A poll reads the same status, and so waits in both or in neither (R151). -/
theorem agree_pollStatus {a : Word} {pos : SeqPos} {k : SeqLocals → State → Result}
    (hk : ∀ l' u u', DifferInTrace u u' → Agree (k l' u) (k l' u')) :
    Agree (pollStatus a cmd pos l s k) (pollStatus a cmd pos l t k) := by
  have hread := h.cartRead16 a
  rw [pollStatus, pollStatus, h.cartValue16, h.cfg]
  split
  · exact hk _ _ _ hread
  · exact .next (hread.toPos cmd pos _)

theorem agree_statusPoll {pos : SeqPos} : Agree (statusPoll pos cmd l s) (statusPoll pos cmd l t) :=
  agree_pollStatus h fun _ _ _ hu => agree_toResult hu _

theorem DifferInTrace.afterSave (o : SaveOutcome) : DifferInTrace (Machine.afterSave o cmd l s) (Machine.afterSave o cmd l t) := by
  cases o with
  | ok => exact h.toPos cmd .release l
  | error status => exact h.toPos cmd .writeResult { l with result := status }

theorem agree_saveReadTransfer (kind : SaveKind) (stay copy : SeqPos) :
    Agree (saveReadTransfer kind stay copy cmd l s) (saveReadTransfer kind stay copy cmd l t) := by
  have hask : DifferInTrace (askSaveRead s) (askSaveRead t) := h.silent askSaveRead
  rw [saveReadTransfer, saveReadTransfer, h.saveReadAnswer]
  cases saveReadAnswer s with
  | none => exact .next (hask.toPos cmd stay l)
  | some ans =>
    have hrec := hask.record (.saveRd kind l.n (saveReadBytes l.n ans s) ans.outcome)
    simp only [h.saveReadBytes]
    refine .next ?_
    split
    · exact hrec.afterSave _
    · exact hrec.toPos cmd copy _

theorem agree_saveReadCopy (copy : SeqPos) : Agree (saveReadCopy copy cmd l s) (saveReadCopy copy cmd l t) := by
  unfold saveReadCopy
  cases l.bytes with
  | nil => exact .next (h.afterSave _)
  | cons b rest =>
    refine agree_storeBuf8 h fun u u' hu => .next ?_
    split
    · exact hu.afterSave _
    · exact hu.toPos cmd copy _

theorem agree_saveWriteGather (gather transfer : SeqPos) :
    Agree (saveWriteGather gather transfer cmd l s) (saveWriteGather gather transfer cmd l t) :=
  agree_loadBuf8 h fun _ => .next (h.toPos cmd _ _)

theorem agree_saveWriteTransfer (kind : SaveKind) (stay : SeqPos) :
    Agree (saveWriteTransfer kind stay cmd l s) (saveWriteTransfer kind stay cmd l t) := by
  have hask : DifferInTrace (askSaveWrite s) (askSaveWrite t) := h.silent askSaveWrite
  rw [saveWriteTransfer, saveWriteTransfer, h.saveWriteAnswer]
  cases saveWriteAnswer s with
  | none => exact .next (hask.toPos cmd stay l)
  | some o => exact .next ((hask.record _).afterSave o)

/-! ### The micro-steps -/

variable (cmd l)

theorem agree_crcMicroStep : Agree (crcMicroStep cmd l s) (crcMicroStep cmd l t) := by
  refine agree_loadBuf8 h fun b => .next ?_
  have hacc := h.silent fun u => u.setAcc (crcUpdate u.crcacc b)
  unfold crcContinue
  split
  · exact hacc.toPos cmd .crcByte _
  · rw [h.crcacc] at hacc ⊢
    exact hacc.toPos cmd .writeResult _

theorem agree_idMicroStep (p : IdPos) : Agree (idMicroStep p cmd l s) (idMicroStep p cmd l t) := by
  cases p with
  | command =>
    rw [idMicroStep, idMicroStep, h.cfg]
    exact .next ((h.record (.w16 l.a s.cfg.fcReadId)).toPos cmd _ l)
  | manufacturer =>
    rw [idMicroStep, idMicroStep, h.cartValue16]
    exact .next ((h.cartRead16 l.a).toPos cmd _ _)
  | device =>
    have hread := h.cartRead16 (l.a + 2)
    simp only [idMicroStep, h.cartValue16, h.cfg]
    split
    · exact agree_toResult (hread.record _) _
    · exact agree_toResult hread _

theorem agree_unlockMicroStep (p : LockPos) : Agree (unlockMicroStep p cmd l s) (unlockMicroStep p cmd l t) := by
  cases p with
  | setup =>
    rw [unlockMicroStep, unlockMicroStep, h.cfg]
    exact .next ((h.record (.w16 l.a s.cfg.fcClearLock)).toPos cmd _ l)
  | confirm =>
    rw [unlockMicroStep, unlockMicroStep, h.cfg]
    exact .next ((h.record (.w16 l.a s.cfg.fcConfirm)).toPos cmd _ l)
  | poll => exact agree_statusPoll h

theorem agree_eraseMicroStep (p : LockPos) : Agree (eraseMicroStep p cmd l s) (eraseMicroStep p cmd l t) := by
  cases p with
  | setup =>
    rw [eraseMicroStep, eraseMicroStep, h.cfg]
    exact .next ((h.record (.w16 l.a s.cfg.fcErase)).toPos cmd _ l)
  | confirm =>
    rw [eraseMicroStep, eraseMicroStep, h.cfg]
    exact .next ((h.record (.w16 l.a s.cfg.fcConfirm)).toPos cmd _ l)
  | poll => exact agree_statusPoll h

theorem agree_programNext : Agree (programNext cmd l s) (programNext cmd l t) := by
  rw [programNext, programNext, h.cfg]
  split
  · exact agree_toResult h _
  · exact .next (h.toPos cmd _ _)

theorem agree_programMicroStep (p : ProgramPos) : Agree (programMicroStep p cmd l s) (programMicroStep p cmd l t) := by
  cases p with
  | ready =>
    rw [programMicroStep, programMicroStep, h.cfg]
    exact agree_pollStatus h fun _ _ _ hu => .next (hu.toPos cmd _ _)
  | command =>
    rw [programMicroStep, programMicroStep, h.cfg]
    exact .next ((h.record (.w16 (chunkAddress s.cfg l.a l.k) s.cfg.fcWriteBuffer)).toPos cmd _ l)
  | count =>
    rw [programMicroStep, programMicroStep, h.cfg]
    exact .next ((h.record (.w16 (chunkAddress s.cfg l.a l.k) (BitVec.ofNat 16 (s.cfg.wbHalfwords - 1)))).toPos cmd _ _)
  | data =>
    rw [programMicroStep, programMicroStep, h.cfg]
    exact agree_loadBuf16 h fun v =>
      .next ((h.record (.w16 (halfwordAddress (chunkAddress s.cfg l.a l.k) l.j) v)).toPos cmd _ _)
  | confirm =>
    rw [programMicroStep, programMicroStep, h.cfg]
    exact .next ((h.record (.w16 (chunkAddress s.cfg l.a l.k) s.cfg.fcConfirm)).toPos cmd _ l)
  | verdict =>
    rw [programMicroStep, programMicroStep, h.cfg]
    exact agree_pollStatus h fun l' _ _ hu => agree_programNext cmd l' hu

theorem agree_dumpMicroStep : Agree (dumpMicroStep cmd l s) (dumpMicroStep cmd l t) := by
  rw [dumpMicroStep, dumpMicroStep, h.cartValue16]
  exact agree_storeBuf16 (h.cartRead16 _) fun _ _ hu => .next (hu.toPos cmd _ _)

theorem agree_readSramMicroStep : Agree (readSramMicroStep cmd l s) (readSramMicroStep cmd l t) := by
  rw [readSramMicroStep, readSramMicroStep, h.cfg, h.cartValue8]
  exact agree_storeBuf8 (h.cartRead8 _) fun _ _ hu => .next (hu.toPos cmd _ _)

theorem agree_writeSramMicroStep : Agree (writeSramMicroStep cmd l s) (writeSramMicroStep cmd l t) := by
  rw [writeSramMicroStep, writeSramMicroStep, h.cfg]
  exact agree_loadBuf8 h fun b => .next ((h.record (.w8 (sramAddress s.cfg l.i) b)).toPos cmd _ _)

/-- At any position the micro-step of two states that differ in what an exchange writes is the same one. -/
theorem agree_microStepAt (i : Instr) (pos : SeqPos) : Agree (microStepAt i cmd pos l s) (microStepAt i cmd pos l t) := by
  cases pos with
  | crcByte => exact agree_crcMicroStep cmd l h
  | id p => exact agree_idMicroStep cmd l h p
  | unlock p => exact agree_unlockMicroStep cmd l h p
  | erase p => exact agree_eraseMicroStep cmd l h p
  | program p => exact agree_programMicroStep cmd l h p
  | dumpHalfword => exact agree_dumpMicroStep cmd l h
  | readSramByte => exact agree_readSramMicroStep cmd l h
  | writeSramByte => exact agree_writeSramMicroStep cmd l h
  | readFlash p | readEeprom p =>
    cases p with
    | transfer => exact agree_saveReadTransfer h _ _ _
    | copy => exact agree_saveReadCopy h _
  | writeFlash p | writeEeprom p =>
    cases p with
    | gather => exact agree_saveWriteGather h _ _
    | transfer => exact agree_saveWriteTransfer h _ _
  | logUnrecognised =>
    rw [microStepAt, microStepAt, h.cfg]
    exact .next ((h.record _).toPos cmd .release l)
  | writeResult => exact .next ((h.silent (·.latch l.result)).toPos cmd .release l)
  | release => exact .next (h.silent (·.releaseSeq))

/-! ### The start of an operation, and the turn -/

theorem agree_startOperation (pos : SeqPos) : Agree (startOperation pos l s) (startOperation pos l t) :=
  .next (h.silent fun u => u.toPos u.wcr pos l)

theorem agree_crcContinue_start (n : Param) :
    Agree (.next (crcContinue s.wcr { n := n } (s.setAcc crcInit)))
      (.next (crcContinue t.wcr { n := n } (t.setAcc crcInit))) := by
  unfold crcContinue
  split
  · exact .next (h.silent fun u => (u.setAcc crcInit).toPos u.wcr .crcByte { n := n })
  · exact .next (h.silent fun u => (u.setAcc crcInit).toResult u.wcr (~~~ crcInit) { n := n })

theorem DifferInTrace.state : t.state = s.state := by cases h; rfl

theorem DifferInTrace.seq : t.seq = s.seq := by cases h; rfl

theorem DifferInTrace.seqFault : t.seqFault = s.seqFault := by cases h; rfl

theorem DifferInTrace.sequencerInstr : sequencerInstr t = sequencerInstr s := by cases h; rfl

/-- Whatever the operation, it starts alike. -/
theorem agree_exec_start {i : Instr} (hi : isSequencerInstr i = true) (hw : s.state = .workerBusy) (hq : s.seq = .idle) :
    Agree (exec i s) (exec i t) := by
  have hw' := h.state.trans hw
  have hq' := h.seq.trans hq
  cases i with
  | crc32 n =>
    rw [exec_crc32_start n hw hq, exec_crc32_start n hw' hq']
    exact agree_crcContinue_start h n
  | readSram n =>
    rw [exec_readSram_start n hw hq, exec_readSram_start n hw' hq']
    exact agree_startOperation _ h _
  | writeSram n =>
    rw [exec_writeSram_start n hw hq, exec_writeSram_start n hw' hq']
    exact agree_startOperation _ h _
  | readFlash n =>
    rw [exec_readFlash_start n hw hq, exec_readFlash_start n hw' hq']
    exact agree_startOperation _ h _
  | writeFlash n =>
    rw [exec_writeFlash_start n hw hq, exec_writeFlash_start n hw' hq']
    exact agree_startOperation _ h _
  | readEeprom n =>
    rw [exec_readEeprom_start n hw hq, exec_readEeprom_start n hw' hq']
    exact agree_startOperation _ h _
  | writeEeprom n =>
    rw [exec_writeEeprom_start n hw hq, exec_writeEeprom_start n hw' hq']
    exact agree_startOperation _ h _
  | dump n =>
    rw [exec_dump_start n hw hq, exec_dump_start n hw' hq', h.cfg]
    exact agree_startOperation _ h _
  | id n =>
    rw [exec_id_start n hw hq, exec_id_start n hw' hq', h.cfg]
    exact agree_startOperation _ h _
  | unlock n =>
    rw [exec_unlock_start n hw hq, exec_unlock_start n hw' hq', h.cfg]
    exact agree_startOperation _ h _
  | erase n =>
    rw [exec_erase_start n hw hq, exec_erase_start n hw' hq', h.cfg]
    exact agree_startOperation _ h _
  | program n =>
    rw [exec_program_start n hw hq, exec_program_start n hw' hq', h.cfg]
    exact agree_startOperation _ h _
  | unrecognisedWorker tag p =>
    rw [exec_unrecognisedWorker_start tag p hq, exec_unrecognisedWorker_start tag p hq']
    exact agree_startOperation _ h _
  | _ => cases hi

/-- The sequencer's turn answers alike: it has no step, starts an operation, or takes the micro-step of its position. -/
theorem agree_sequencerTurn (hs : WorkerInv s) : Agree (sequencerTurn s) (sequencerTurn t) := by
  obtain ⟨hw, hf, hturn⟩ | ⟨hrest, hturn⟩ := sequencerTurn_cases s
  · rw [hturn, sequencerTurn_enabled (h.state.trans hw) (h.seqFault.trans hf), h.sequencerInstr]
    cases hq : s.seq with
    | idle => exact agree_exec_start h (isSequencerInstr_decodeWorker _ _) hw hq
    | running cmd pos l =>
      obtain ⟨-, hop, -⟩ := running_of_workerInv hs hq
      rw [sequencerInstr_running hq, exec_at_operation hw hq hop,
        exec_at_operation (h.state.trans hw) (h.seq.trans hq) (h.cfg.symm ▸ hop)]
      exact agree_microStepAt cmd l h _ pos
  · have hturn' : sequencerTurn t = .next t := by
      obtain ⟨hw, hf, -⟩ | ⟨-, hturn'⟩ := sequencerTurn_cases t
      · exact (hrest.elim (· (h.state.symm.trans hw)) (· (h.seqFault.symm.trans hf))).elim
      · exact hturn'
    rw [hturn, hturn']
    exact .next h

end Shared

/-! ### The statement -/

/-- The FSM of a block that works on a command has not stopped. -/
theorem fsmFault_none_of_workerBusy {s : State} (hs : Inv s) (hw : s.state = .workerBusy) : s.fsmFault = none :=
  fsmFault_none_of_no_transfer (transferInv_of_inv hs) (by simp [hw])

theorem Agree.outcomes {r r' : Result} (h : Agree r r') :
    (∃ i t u, r = .fault (.bufferRange i t) ∧ r' = .fault (.bufferRange i u) ∧ SameButForExchanges t u) ∨
      ∃ t u, r = .next t ∧ r' = .next u ∧ SameButForExchanges t u := by
  cases h with
  | next h => exact .inr ⟨_, _, rfl, rfl, sameButForExchanges_of_differ h⟩
  | fault i h => exact .inl ⟨i, _, _, rfl, rfl, sameButForExchanges_of_differ h⟩

/-- Settles O53: the two turns are taken from states that differ in `TXD` and the record of the exchange, and so agree. -/
theorem exchangeDoesNotDisturbTheSequencer : Obligations.ExchangeDoesNotDisturbTheSequencer := by
  intro s rx rest hs hw
  refine ⟨_, step_exchange_workerBusy rfl hw (fsmFault_none_of_workerBusy hs hw :), ?_⟩
  rw [step_sequencer rfl, step_sequencer rfl]
  have hdiff : DifferInTrace ((takeExchange rx (s.withInputs rest)).emit s.cfg.busyWord) (s.withInputs rest) :=
    .intro s.txd s.history rfl
  exact (agree_sequencerTurn hdiff { workerInv_of_inv hs with }).outcomes

end Sys2Proof.Proofs

/-! PROOFS of the family `41_worker_crc32.md`, part 2: the CRC engine, the start of an operation, and the turn. The two forms of
the CRC update agree because a shift of the register is linear over xor. -/

namespace Sys2Proof.Proofs

open Sys2Proof.Machine Sys2Proof.Laws

/-! ### The CRC engine (R136, R137) -/

/-- A step of the register is linear: the polynomial is folded in for each one that falls out. -/
theorem crcShift_xor (a b : Word) : crcShift (a ^^^ b) = crcShift a ^^^ crcShift b := by
  simp only [crcShift, BitVec.getLsbD_xor, BitVec.ushiftRight_xor_distrib]
  cases a.getLsbD 0 <;> cases b.getLsbD 0
  · rfl
  · exact BitVec.xor_assoc _ _ _
  · simp [BitVec.xor_assoc, BitVec.xor_comm (b >>> 1)]
  · simp [BitVec.xor_assoc]

theorem crcShifts_xor (k : Nat) (a b : Word) : crcShifts k (a ^^^ b) = crcShifts k a ^^^ crcShifts k b := by
  induction k generalizing a b with
  | zero => rfl
  | succ k ih => rw [crcShifts, crcShift_xor, ih, crcShifts, crcShifts]

/-- While zeros fall out a step only shifts. -/
theorem crcShifts_of_low_zeros (k : Nat) {c : Word} (hc : ∀ i < k, c.getLsbD i = false) : crcShifts k c = c >>> k := by
  induction k generalizing c with
  | zero => exact (BitVec.ushiftRight_zero c).symm
  | succ k ih =>
    have hshift : crcShift c = c >>> 1 := by rw [crcShift, hc 0 (Nat.zero_lt_succ k), if_neg Bool.false_ne_true]
    have hlow : ∀ i < k, (c >>> 1).getLsbD i = false := fun i hi => by
      rw [BitVec.getLsbD_ushiftRight]
      exact hc _ (by omega)
    rw [crcShifts, hshift, ih hlow, ← BitVec.shiftRight_add, Nat.add_comm]

/-- A word is its upper three bytes and its low byte. -/
theorem word_eq_high_xor_low (x : Word) : x = x >>> 8 <<< 8 ^^^ (x.extractLsb' 0 8).setWidth 32 := by
  apply BitVec.eq_of_getLsbD_eq
  intro i hi
  by_cases h : i < 8
  · simp [h, hi]
  · have hback : 8 + (i - 8) = i := by omega
    simp [h, hi, hback]

/-- Eight steps fold in the table entry of the low byte (R136). -/
theorem crcShifts_eight (x : Word) : crcShifts 8 x = x >>> 8 ^^^ crcTab (x.extractLsb' 0 8) := by
  have hhigh : crcShifts 8 (x >>> 8 <<< 8) = x >>> 8 := by
    rw [crcShifts_of_low_zeros 8 fun i hi => by simp [hi]]
    apply BitVec.eq_of_getLsbD_eq
    intro i hi
    by_cases h : 8 + i < 32
    · simp [h]
    · simp [h, BitVec.getLsbD_of_ge x (8 + i) (by omega)]
  conv_lhs => rw [word_eq_high_xor_low x, crcShifts_xor, hhigh]
  rfl

/-- Settles O59: the data byte changes the low byte of the register only, so the upper three are shifted as they are. -/
theorem crcTableAgreesWithBitSerial : Obligations.CrcTableAgreesWithBitSerial := by
  intro acc b
  have hbyte : (b.setWidth 32 : Word) >>> 8 = 0#32 := by
    apply BitVec.eq_of_getLsbD_eq
    intro i _
    simp
  refine ⟨rfl, ?_⟩
  rw [crcUpdateBitSerial, crcShifts_eight, BitVec.ushiftRight_xor_distrib, hbyte, BitVec.xor_zero, crcUpdate]

/-! ### The turn (R130, R131) -/

/-- Settles O42. -/
theorem stepRunsLatchedCommand : Obligations.StepRunsLatchedCommand := by
  intro s rest hin
  refine ⟨fun hw hf hq => step_turn hin hw hf (sequencerInstr_rest hq),
    fun cmd pos l hw hf hq => step_turn hin hw hf (sequencerInstr_running hq), fun hrest => ?_⟩
  have hturn : sequencerTurn (s.withInputs rest) = .next (s.withInputs rest) := by
    obtain hw | hf := hrest
    · exact sequencerTurn_disabled (s := s.withInputs rest) hw
    · obtain ⟨i, hi⟩ := Option.ne_none_iff_exists'.1 hf
      exact sequencerTurn_stopped (s := s.withInputs rest) hi
  obtain hin | ⟨hin, rfl⟩ := hin
  · exact (step_sequencer hin).trans hturn
  · have hs : s.withInputs [] = s := by rw [← hin]; rfl
    rw [hs] at hturn
    exact (step_nil hin).trans (hturn.trans (congrArg _ hs.symm))

/-! ### The start of an operation (R131) -/

/-- A byte loop starts with its first byte, if it has one. -/
theorem bytePos_zero (p : Param) (more done : SeqPos) :
    bytePos 0 (byteLength p) more done = if p = 0 then done else more := by
  by_cases hp : p = 0
  · subst hp; rfl
  · have hpos : 0 < byteLength p := Nat.pos_of_ne_zero fun h => hp (BitVec.eq_of_toNat_eq h)
    rw [bytePos, if_pos hpos, if_neg hp]

theorem crcContinue_more {cmd : Word} {l : SeqLocals} {s : State} (h : l.i < byteLength l.n) :
    crcContinue cmd l s = s.toPos cmd .crcByte l := if_pos h

theorem crcContinue_done {cmd : Word} {l : SeqLocals} {s : State} (h : ¬ l.i < byteLength l.n) :
    crcContinue cmd l s = s.toResult cmd (~~~ s.crcacc) l := if_neg h

/-- CRC32 without a byte has its result at the start: the complement of all ones, which is 0 (R138). -/
theorem crcContinue_start (cmd : Word) (p : Param) (s : State) :
    crcContinue cmd { n := p } (s.setAcc crcInit) =
      (s.setAcc crcInit).toPos cmd (if p = 0 then .writeResult else .crcByte) { n := p } := by
  have hcompl : ~~~ crcInit = 0 := by decide
  rw [← bytePos_zero p .crcByte .writeResult, bytePos]
  by_cases hp : 0 < byteLength p
  · rw [if_pos hp]
    exact crcContinue_more hp
  · rw [if_neg hp, crcContinue_done hp, setAcc_crcacc, hcompl]
    rfl

/-- Settles O17. -/
theorem operationStart : Obligations.OperationStart := by
  intro s p hw hq
  refine ⟨(exec_crc32_start p hw hq).trans (congrArg _ (crcContinue_start s.wcr p s)),
    ?readSram, ?writeSram, exec_readFlash_start p hw hq, ?writeFlash, exec_readEeprom_start p hw hq, ?writeEeprom,
    exec_dump_start p hw hq, exec_id_start p hw hq, exec_unlock_start p hw hq, exec_erase_start p hw hq,
    exec_program_start p hw hq⟩
  case readSram => rw [exec_readSram_start p hw hq, bytePos_zero]; rfl
  case writeSram => rw [exec_writeSram_start p hw hq, bytePos_zero]; rfl
  case writeFlash => rw [exec_writeFlash_start p hw hq, bytePos_zero, apply_ite SeqPos.writeFlash]; rfl
  case writeEeprom => rw [exec_writeEeprom_start p hw hq, bytePos_zero, apply_ite SeqPos.writeEeprom]; rfl

/-! ### One byte of CRC32 (R137, R138) -/

/-- Settles O19. -/
theorem crc32FoldsOneByte : Obligations.Crc32FoldsOneByte := by
  intro s p cmd l hw hq
  rw [exec_crc32_micro p hw hq, crcMicroStep]
  refine ⟨fun hi hmore => ?_, fun hi hlast => ?_, fun hi => ?_⟩
  · exact (loadBuf8_inside s _ hi).trans (congrArg _ (crcContinue_more hmore))
  · exact (loadBuf8_inside s _ hi).trans (congrArg _ (crcContinue_done (Nat.not_lt.2 hlast)))
  · exact loadBuf8_outside s _ (Nat.not_lt.2 hi)

end Sys2Proof.Proofs

/-! PROOFS of the family `41_worker_crc32.md`, part 3: the sequencer alone, and the operations that are one loop: CRC32,
READ_SRAM, WRITE_SRAM and DUMP. The state before each turn of a loop is written out as a function of the index, so that one
lemma per loop serves the run that ends and the run that faults at the end of the Buffer. -/

namespace Sys2Proof.Proofs

open Sys2Proof.Machine Sys2Proof.Laws

/-! ### The sequencer alone (R133, R269) -/

/-- The sequencer works on the instruction `i`, read from `cmd`, has not stopped, and every turn is its own (log 2). -/
structure WorksOn (i : Instr) (cmd : Word) (s : State) : Prop where
  inputs : s.inputs = []
  state : s.state = .workerBusy
  seqFault : s.seqFault = none
  decoded : decodeWorker s.cfg cmd = i

/-- A worker command just dispatched. -/
theorem worksOn_dispatched {s : State} {i : Instr} (hi : isWorkerCommand i = true) (hc : s.cfg.valid = true)
    (hw : s.state = .workerBusy) (hf : s.seqFault = none) (hin : s.inputs = []) (hwcr : s.wcr = encode s.cfg i) :
    WorksOn i s.wcr s where
  inputs := hin
  state := hw
  seqFault := hf
  decoded := hwcr ▸ decodeWorker_of_workerOp (workerOp_encode hc hi)

section Alone

variable {i : Instr} {cmd : Word} {s : State} (h : WorksOn i cmd s)

include h

/-- A step is the micro-step of the instruction. -/
theorem WorksOn.step (pos : SeqPos) (l : SeqLocals) : Machine.step (s.toPos cmd pos l) = exec i (s.toPos cmd pos l) := by
  rw [step_nil (s := s.toPos cmd pos l) h.inputs, sequencerTurn_enabled (s := s.toPos cmd pos l) h.state h.seqFault,
    sequencerInstr_running (s := s.toPos cmd pos l) rfl]
  exact congrArg (exec · (s.toPos cmd pos l)) h.decoded

theorem WorksOn.step_micro {pos : SeqPos} {l : SeqLocals} {micro : State → Result}
    (hmicro : ∀ {u : State}, u.state = .workerBusy → u.seq = .running cmd pos l → exec i u = micro u) :
    Machine.step (s.toPos cmd pos l) = micro (s.toPos cmd pos l) :=
  (h.step pos l).trans (hmicro (u := s.toPos cmd pos l) h.state rfl)

/-- The first step is the start of the operation. -/
theorem WorksOn.start (hq : s.seq = .idle) (hcmd : s.wcr = cmd) : Machine.step s = exec i s := by
  rw [step_nil h.inputs, sequencerTurn_enabled h.state h.seqFault, sequencerInstr_rest hq, hcmd, h.decoded]

/-- An operation without a result: the release (R132). -/
theorem WorksOn.runsTo_release (hq : s.seq = .idle) (l : SeqLocals) :
    RunsTo 1 (s.toPos cmd .release l) { s with state := .idle } := by
  have hstep := step_release (s := s.toPos cmd .release l) (.inr ⟨h.inputs, rfl⟩) h.state h.seqFault rfl
  rw [← hq, ← h.inputs] at hstep
  exact .single hstep

/-- An operation with a result: the two writes of completion (R132). -/
theorem WorksOn.runsTo_result (hq : s.seq = .idle) (r : Word) (l : SeqLocals) :
    RunsTo 2 (s.toResult cmd r l) { s with state := .idle, wcr := r } := by
  have hrun := runsTo_completion (cmd := cmd) (r := r) (l := l) (.inr ⟨h.inputs, rfl⟩) h.state h.seqFault
  rw [← hq, ← h.inputs] at hrun
  exact hrun

end Alone

/-- A loop whose state before turn `i` is `before i`. -/
theorem runsTo_loop {before : Nat → State} (k : Nat) (h : ∀ i < k, step (before i) = .next (before (i + 1))) :
    RunsTo k (before 0) (before k) := by
  induction k with
  | zero => exact .refl _
  | succ k ih => exact (ih fun i hi => h i (Nat.lt_succ_of_lt hi)).trans (.single (h k (Nat.lt_succ_self k)))

/-- A run that ends in a fault. -/
theorem RunsTo.run_fault {k : Nat} {s t : State} {f : Fault} (h : RunsTo k s t) (hf : Machine.step t = .fault f) :
    core.run (k + 1) s = .fault f := by
  induction h with
  | refl s =>
    have hcore : core.step s = .fault f := hf
    simp only [Host.Core.run, hcore]
  | @step k s t u hs _ ih =>
    have hcore : core.step s = .next t := hs
    simp only [Host.Core.run, hcore]
    exact ih hf

/-! ### Bytes and events in ascending order -/

/-- The first events of a loop, newest first (R78). -/
theorem reverse_mapIdx_concat {α : Type} (f : Nat → α → Event) (xs : List α) (x : α) :
    ((xs ++ [x]).mapIdx f).reverse = f xs.length x :: (xs.mapIdx f).reverse := by
  rw [List.mapIdx_concat, List.reverse_concat]

theorem reverse_mapIdx_take_succ {α : Type} (f : Nat → α → Event) {xs : List α} {i : Nat} (hi : i < xs.length) :
    ((xs.take (i + 1)).mapIdx f).reverse = f i xs[i] :: ((xs.take i).mapIdx f).reverse := by
  rw [List.take_succ_eq_append_getElem hi, reverse_mapIdx_concat, List.length_take_of_le hi.le]

theorem setBytes_concat (m : Memory) (i : Nat) (bs : List Byte) (b : Byte) :
    setBytes m i (bs ++ [b]) = setBuf8 (setBytes m i bs) (i + bs.length) b := by
  induction bs generalizing m i with
  | nil => rfl
  | cons c bs ih => rw [List.cons_append, setBytes, ih, List.length_cons, Nat.add_right_comm, Nat.add_assoc, setBytes]

theorem setBytes_take_succ (m : Memory) {bs : List Byte} {i : Nat} (hi : i < bs.length) :
    setBytes m 0 (bs.take (i + 1)) = setBuf8 (setBytes m 0 (bs.take i)) i bs[i] := by
  rw [List.take_succ_eq_append_getElem hi, setBytes_concat, List.length_take_of_le hi.le, Nat.zero_add]

theorem setHalfwords_concat (m : Memory) (j : Nat) (vs : List Halfword) (v : Halfword) :
    setHalfwords m j (vs ++ [v]) = setBuf16 (setHalfwords m j vs) (j + vs.length) v := by
  induction vs generalizing m j with
  | nil => rfl
  | cons u vs ih =>
    rw [List.cons_append, setHalfwords, ih, List.length_cons, Nat.add_right_comm, Nat.add_assoc, setHalfwords]

theorem setHalfwords_take_succ (m : Memory) {vs : List Halfword} {j : Nat} (hj : j < vs.length) :
    setHalfwords m 0 (vs.take (j + 1)) = setBuf16 (setHalfwords m 0 (vs.take j)) j vs[j] := by
  rw [List.take_succ_eq_append_getElem hj, setHalfwords_concat, List.length_take_of_le hj.le, Nat.zero_add]

theorem bufferBytes_succ (m : Memory) (i : Nat) : bufferBytes m (i + 1) = bufferBytes m i ++ [buf8 m i] := by
  rw [bufferBytes, List.range_succ, List.map_append, List.map_singleton, bufferBytes]

@[simp] theorem length_bufferBytes (m : Memory) (n : Nat) : (bufferBytes m n).length = n := by simp [bufferBytes]

theorem bytePos_more {i n : Nat} (more done : SeqPos) (h : i < n) : bytePos i n more done = more := if_pos h

theorem bytePos_done {i n : Nat} (more done : SeqPos) (h : ¬ i < n) : bytePos i n more done = done := if_neg h

/-! ### CRC32 past the Buffer (R138, R227) -/

theorem foldl_crcUpdate_bufferBytes (m : Memory) (n : Nat) :
    (bufferBytes m n).foldl crcUpdate crcInit = ~~~ crc32 (bufferBytes m n) := by
  rw [crc32, BitVec.not_not]

/-- CRC32 before byte `i`: the bytes below it are folded. -/
def beforeCrcByte (s : State) (n : Param) (i : Nat) : State :=
  crcContinue s.wcr { n := n, i := i } (s.setAcc ((bufferBytes s.buf i).foldl crcUpdate crcInit))

theorem step_beforeCrcByte {s : State} {n : Param} {i : Nat} (h : WorksOn (.crc32 n) s.wcr s) (hn : i < byteLength n)
    (hi : i < bufBytes) : step (beforeCrcByte s n i) = .next (beforeCrcByte s n (i + 1)) := by
  have h' : WorksOn (.crc32 n) s.wcr (s.setAcc ((bufferBytes s.buf i).foldl crcUpdate crcInit)) := { h with }
  rw [beforeCrcByte, crcContinue_more hn, h'.step_micro (exec_crc32_micro n), crcMicroStep, loadBuf8_inside _ _ hi,
    beforeCrcByte, bufferBytes_succ, List.foldl_concat]
  rfl

/-- A byte past the Buffer is the fault, and nothing else is done (R55, D7). -/
theorem step_beforeCrcByte_fault {s : State} {n : Param} {i : Nat} (h : WorksOn (.crc32 n) s.wcr s)
    (hn : i < byteLength n) (hi : ¬ i < bufBytes) :
    step (beforeCrcByte s n i) = .fault (.bufferRange i { s with
      crcacc := ~~~ crc32 (bufferBytes s.buf i), seq := .running s.wcr .crcByte { n := n, i := i }
      seqFault := some i, faults := i :: s.faults }) := by
  have h' : WorksOn (.crc32 n) s.wcr (s.setAcc ((bufferBytes s.buf i).foldl crcUpdate crcInit)) := { h with }
  rw [beforeCrcByte, crcContinue_more hn, h'.step_micro (exec_crc32_micro n), crcMicroStep, loadBuf8_outside _ _ hi,
    foldl_crcUpdate_bufferBytes]
  rfl

theorem crc32_checkValues :
    crc32 [] = 0x00000000 ∧ crc32 [0x31, 0x32, 0x33, 0x34, 0x35, 0x36, 0x37, 0x38, 0x39] = 0xCBF43926 := by
  decide

/-- Settles O31: the run to the end is `runsTo_crc32`; past the Buffer the loop goes as far as the Buffer does. -/
theorem crc32RunGivesCrc : Obligations.Crc32RunGivesCrc := by
  refine ⟨fun s n hc hw hq hf hin hwcr => ⟨fun hn => ?_, fun hn => ?_⟩, crc32_checkValues⟩
  · have hrun := runsTo_crc32 hc hw hq hf hwcr hn (rest := []) (.inr ⟨hin, rfl⟩)
    rw [← hq, ← hin] at hrun
    exact hrun.run_eq
  · have h := worksOn_dispatched (i := .crc32 n) rfl hc hw hf hin hwcr
    have hstart : step s = .next (beforeCrcByte s n 0) := (h.start hq rfl).trans (exec_crc32_start n hw hq)
    have hloop := runsTo_loop (before := beforeCrcByte s n) bufBytes fun i hi =>
      step_beforeCrcByte h (Nat.lt_trans hi hn) hi
    exact (RunsTo.step hstart hloop).run_fault (step_beforeCrcByte_fault h hn (Nat.lt_irrefl bufBytes))

/-! ### WRITE_SRAM (R181) -/

/-- The state once the first `i` bytes of the Buffer have been written to the save RAM. -/
def sramWritten (s : State) (i : Nat) : State :=
  { s with history := ((bufferBytes s.buf i).mapIdx fun j b => .w8 (sramAddress s.cfg j) b).reverse ++ s.history }

theorem sramWritten_succ (s : State) (i : Nat) :
    cartWrite8 (sramAddress s.cfg i) (buf8 s.buf i) (sramWritten s i) = sramWritten s (i + 1) := by
  simp only [sramWritten, bufferBytes_succ, reverse_mapIdx_concat, length_bufferBytes]
  rfl

section WriteSram

variable {s : State} {n : Param} {i : Nat} (h : WorksOn (.writeSram n) s.wcr s) (hn : i < byteLength n)

/-- WRITE_SRAM before byte `i`. -/
def beforeSramWrite (s : State) (n : Param) (i : Nat) : State :=
  (sramWritten s i).toPos s.wcr (bytePos i (byteLength n) .writeSramByte .release) { n := n, i := i }

include h hn

theorem step_beforeSramWrite (hi : i < bufBytes) :
    step (beforeSramWrite s n i) = .next (beforeSramWrite s n (i + 1)) := by
  have h' : WorksOn (.writeSram n) s.wcr (sramWritten s i) := { h with }
  rw [beforeSramWrite, bytePos_more _ _ hn, h'.step_micro (exec_writeSram_micro n), writeSramMicroStep,
    loadBuf8_inside _ _ hi, beforeSramWrite, ← sramWritten_succ]
  rfl

theorem step_beforeSramWrite_fault (hi : ¬ i < bufBytes) :
    step (beforeSramWrite s n i) = .fault (.bufferRange i { s with
      history := ((bufferBytes s.buf i).mapIdx fun j b => .w8 (sramAddress s.cfg j) b).reverse ++ s.history
      seq := .running s.wcr .writeSramByte { n := n, i := i }, seqFault := some i, faults := i :: s.faults }) := by
  have h' : WorksOn (.writeSram n) s.wcr (sramWritten s i) := { h with }
  rw [beforeSramWrite, bytePos_more _ _ hn, h'.step_micro (exec_writeSram_micro n), writeSramMicroStep,
    loadBuf8_outside _ _ hi]
  rfl

end WriteSram

/-- Settles O37. -/
theorem writeSramRunWritesBuffer : Obligations.WriteSramRunWritesBuffer := by
  intro s n hc hw hq hf hin hwcr
  have h := worksOn_dispatched (i := .writeSram n) rfl hc hw hf hin hwcr
  have hstart : step s = .next (beforeSramWrite s n 0) := (h.start hq rfl).trans (exec_writeSram_start n hw hq)
  have hloop (k : Nat) (hk : k ≤ byteLength n) (hb : k ≤ bufBytes) :
      RunsTo (k + 1) s (beforeSramWrite s n k) :=
    .step hstart <| runsTo_loop k fun i hi => step_beforeSramWrite h (by omega) (by omega)
  refine ⟨fun hn => ?_, fun hn => ?_⟩
  · have hend : RunsTo 1 (beforeSramWrite s n (byteLength n)) { sramWritten s (byteLength n) with state := .idle } := by
      have h' : WorksOn (.writeSram n) s.wcr (sramWritten s (byteLength n)) := { h with }
      rw [beforeSramWrite, bytePos_done _ _ (Nat.lt_irrefl _)]
      exact h'.runsTo_release hq _
    exact ((hloop _ le_rfl hn).trans hend).run_eq
  · exact (hloop bufBytes hn.le le_rfl).run_fault (step_beforeSramWrite_fault h hn (Nat.lt_irrefl bufBytes))

/-! ### READ_SRAM (R180) -/

/-- The state once the first `i` of the bytes `bs` have been read from the save RAM and copied. -/
def sramRead (s : State) (bs rest : List Byte) (i : Nat) : State :=
  { s with
    buf := setBytes s.buf 0 (bs.take i), cart8 := bs.drop i ++ rest, draws := s.draws + i
    history := ((bs.take i).mapIdx fun j b => .r8 (sramAddress s.cfg j) b).reverse ++ s.history }

/-- One byte of READ_SRAM inside the Buffer: the read, then the copy. -/
theorem readSramMicroStep_inside {cmd : Word} {pos : SeqPos} {l : SeqLocals} (u : State) (hi : l.i < bufBytes) :
    readSramMicroStep cmd l (u.toPos cmd pos l) =
      .next (((cartRead8 (sramAddress u.cfg l.i) u).setBuf
          (setBuf8 u.buf l.i (cartValue8 (sramAddress u.cfg l.i) u))).toPos cmd
        (bytePos (l.i + 1) (byteLength l.n) .readSramByte .release) { l with i := l.i + 1 }) :=
  storeBuf8_inside _ _ _ hi

/-- Past the Buffer the read has been made when the copy faults (R227). -/
theorem readSramMicroStep_outside {cmd : Word} {pos : SeqPos} {l : SeqLocals} (u : State) (hi : ¬ l.i < bufBytes) :
    readSramMicroStep cmd l (u.toPos cmd pos l) =
      .fault (.bufferRange l.i (((cartRead8 (sramAddress u.cfg l.i) u).toPos cmd pos l).stopSeq l.i)) :=
  storeBuf8_outside _ _ _ hi

section ReadSram

variable {s : State} {n : Param} {bs rest : List Byte} {i : Nat}

theorem sramRead_zero (hcart : s.cart8 = bs ++ rest) : sramRead s bs rest 0 = s := by
  rw [sramRead, List.drop_zero, ← hcart]
  rfl

theorem cartValue8_sramRead (a : Word) (hi : i < bs.length) : cartValue8 a (sramRead s bs rest i) = bs[i] := by
  simp only [cartValue8, sramRead, List.drop_eq_getElem_cons hi, List.cons_append, List.headD_cons]

/-- The read of one byte, before its copy. -/
theorem cartRead8_sramRead (hi : i < bs.length) :
    cartRead8 (sramAddress s.cfg i) (sramRead s bs rest i) =
      (sramRead s bs rest (i + 1)).setBuf (setBytes s.buf 0 (bs.take i)) := by
  rw [cartRead8, cartValue8_sramRead _ hi]
  simp only [sramRead, State.setBuf, List.drop_eq_getElem_cons hi, List.cons_append, List.tail_cons,
    reverse_mapIdx_take_succ _ hi, Nat.add_assoc]

/-- The copy of the byte that has been read. -/
theorem setBuf8_sramRead (hi : i < bs.length) : setBuf8 (sramRead s bs rest i).buf i bs[i] = (sramRead s bs rest (i + 1)).buf :=
  (setBytes_take_succ s.buf hi).symm

/-- READ_SRAM before byte `i`. -/
def beforeSramRead (s : State) (n : Param) (bs rest : List Byte) (i : Nat) : State :=
  (sramRead s bs rest i).toPos s.wcr (bytePos i (byteLength n) .readSramByte .release) { n := n, i := i }

variable (h : WorksOn (.readSram n) s.wcr s) (hn : i < byteLength n) (hlen : i < bs.length)

include h hn hlen

theorem step_beforeSramRead (hi : i < bufBytes) :
    step (beforeSramRead s n bs rest i) = .next (beforeSramRead s n bs rest (i + 1)) := by
  have h' : WorksOn (.readSram n) s.wcr (sramRead s bs rest i) := { h with }
  have hread : cartRead8 (sramAddress (sramRead s bs rest i).cfg i) (sramRead s bs rest i) = _ := cartRead8_sramRead hlen
  rw [beforeSramRead, bytePos_more _ _ hn, h'.step_micro (exec_readSram_micro n), readSramMicroStep_inside _ hi, hread,
    cartValue8_sramRead _ hlen, setBuf8_sramRead hlen]
  rfl

/-- The last read is on record, and its byte is not in the Buffer (R227). -/
theorem step_beforeSramRead_fault (hi : ¬ i < bufBytes) :
    step (beforeSramRead s n bs rest i) = .fault (.bufferRange i { sramRead s bs rest (i + 1) with
      buf := setBytes s.buf 0 (bs.take i), seq := .running s.wcr .readSramByte { n := n, i := i }
      seqFault := some i, faults := i :: s.faults }) := by
  have h' : WorksOn (.readSram n) s.wcr (sramRead s bs rest i) := { h with }
  have hread : cartRead8 (sramAddress (sramRead s bs rest i).cfg i) (sramRead s bs rest i) = _ := cartRead8_sramRead hlen
  rw [beforeSramRead, bytePos_more _ _ hn, h'.step_micro (exec_readSram_micro n), readSramMicroStep_outside _ hi, hread]
  rfl

end ReadSram

/-- All the bytes have been read. -/
theorem sramRead_all (s : State) {bs : List Byte} (rest : List Byte) {k : Nat} (hk : bs.length = k) :
    sramRead s bs rest k = { s with
      buf := setBytes s.buf 0 bs, cart8 := rest, draws := s.draws + k
      history := (bs.mapIdx fun i b => .r8 (s.cfg.sramBase + BitVec.ofNat 32 i) b).reverse ++ s.history } := by
  rw [sramRead, List.take_of_length_le hk.le, List.drop_of_length_le hk.le]
  rfl

/-- Settles O36. -/
theorem readSramRunFillsBuffer : Obligations.ReadSramRunFillsBuffer := by
  intro s n bs rest hc hw hq hf hin hwcr hcart
  have h := worksOn_dispatched (i := .readSram n) rfl hc hw hf hin hwcr
  have hstart : step s = .next (beforeSramRead s n bs rest 0) := by
    rw [beforeSramRead, sramRead_zero hcart]
    exact (h.start hq rfl).trans (exec_readSram_start n hw hq)
  have hloop (k : Nat) (hk : k ≤ byteLength n) (hlen : k ≤ bs.length) (hb : k ≤ bufBytes) :
      RunsTo (k + 1) s (beforeSramRead s n bs rest k) :=
    .step hstart <| runsTo_loop k fun i hi => step_beforeSramRead h (by omega) (by omega) (by omega)
  refine ⟨fun hn hlen => ?_, fun hn hlen => ?_⟩
  · have hend : RunsTo 1 (beforeSramRead s n bs rest (byteLength n))
        { sramRead s bs rest (byteLength n) with state := .idle } := by
      have h' : WorksOn (.readSram n) s.wcr (sramRead s bs rest (byteLength n)) := { h with }
      rw [beforeSramRead, bytePos_done _ _ (Nat.lt_irrefl _)]
      exact h'.runsTo_release hq _
    rw [sramRead_all s rest (k := byteLength n) hlen] at hend
    exact ((hloop _ le_rfl hlen.ge hn).trans hend).run_eq
  · have hlast : bufBytes < bs.length := lt_of_lt_of_eq (Nat.lt_succ_self bufBytes) hlen.symm
    have hfault := step_beforeSramRead_fault (rest := rest) h hn hlast (Nat.lt_irrefl bufBytes)
    rw [sramRead_all s rest hlen] at hfault
    exact (hloop bufBytes hn.le hlast.le le_rfl).run_fault hfault

/-! ### DUMP (R160) -/

/-- The state once the first `j` of the halfwords `vs` have been read from the flash block at `a` and copied. -/
def flashDumped (s : State) (a : Word) (vs rest : List Halfword) (j : Nat) : State :=
  { s with
    buf := setHalfwords s.buf 0 (vs.take j), cart16 := vs.drop j ++ rest, draws := s.draws + j
    history := ((vs.take j).mapIdx fun i v => .r16 (halfwordAddress a i) v).reverse ++ s.history }

/-- One halfword of DUMP: the read, then the copy. -/
theorem dumpMicroStep_inside {cmd : Word} {pos : SeqPos} {l : SeqLocals} (u : State) (hj : l.j < bufHalfwords) :
    dumpMicroStep cmd l (u.toPos cmd pos l) =
      .next (((cartRead16 (halfwordAddress l.a l.j) u).setBuf
          (setBuf16 u.buf l.j (cartValue16 (halfwordAddress l.a l.j) u))).toPos cmd
        (bytePos (l.j + 1) bufHalfwords .dumpHalfword .release) { l with j := l.j + 1 }) :=
  storeBuf16_inside _ _ _ hj

section Dump

variable {s : State} {p : Param} {a : Word} {vs rest : List Halfword} {j : Nat}

theorem flashDumped_zero (hcart : s.cart16 = vs ++ rest) : flashDumped s a vs rest 0 = s := by
  rw [flashDumped, List.drop_zero, ← hcart]
  rfl

theorem cartValue16_flashDumped (x : Word) (hj : j < vs.length) : cartValue16 x (flashDumped s a vs rest j) = vs[j] := by
  simp only [cartValue16, flashDumped, List.drop_eq_getElem_cons hj, List.cons_append, List.headD_cons]

theorem flashDumped_succ (hj : j < vs.length) :
    (cartRead16 (halfwordAddress a j) (flashDumped s a vs rest j)).setBuf
      (setBuf16 (flashDumped s a vs rest j).buf j vs[j]) = flashDumped s a vs rest (j + 1) := by
  rw [cartRead16, cartValue16_flashDumped _ hj]
  simp only [flashDumped, State.setBuf, List.drop_eq_getElem_cons hj, List.cons_append, List.tail_cons,
    reverse_mapIdx_take_succ _ hj, setHalfwords_take_succ _ hj, Nat.add_assoc]

/-- All the halfwords have been read. -/
theorem flashDumped_all (s : State) (a : Word) {vs : List Halfword} (rest : List Halfword) {k : Nat} (hk : vs.length = k) :
    flashDumped s a vs rest k = { s with
      buf := setHalfwords s.buf 0 vs, cart16 := rest, draws := s.draws + k
      history := (vs.mapIdx fun j v => .r16 (a + BitVec.ofNat 32 (2 * j)) v).reverse ++ s.history } := by
  rw [flashDumped, List.take_of_length_le hk.le, List.drop_of_length_le hk.le]
  rfl

/-- DUMP before halfword `j`. -/
def beforeDump (s : State) (a : Word) (vs rest : List Halfword) (j : Nat) : State :=
  (flashDumped s a vs rest j).toPos s.wcr (bytePos j bufHalfwords .dumpHalfword .release) { a := a, j := j }

theorem step_beforeDump (h : WorksOn (.dump p) s.wcr s) (hlen : j < vs.length) (hj : j < bufHalfwords) :
    step (beforeDump s a vs rest j) = .next (beforeDump s a vs rest (j + 1)) := by
  have h' : WorksOn (.dump p) s.wcr (flashDumped s a vs rest j) := { h with }
  rw [beforeDump, bytePos_more _ _ hj, h'.step_micro (exec_dump_micro p), dumpMicroStep_inside _ hj,
    cartValue16_flashDumped _ hlen, flashDumped_succ hlen]
  rfl

end Dump

/-- Settles O35. -/
theorem dumpRunFillsBuffer : Obligations.DumpRunFillsBuffer := by
  intro s p vs rest a hc hw hq hf hin hwcr ha hcart hlen
  subst ha
  have h := worksOn_dispatched (i := .dump p) rfl hc hw hf hin hwcr
  have hstart : step s = .next (beforeDump s (flashAddress s.cfg p) vs rest 0) := by
    rw [beforeDump, flashDumped_zero hcart]
    exact (h.start hq rfl).trans (exec_dump_start p hw hq)
  have hloop := runsTo_loop (before := beforeDump s (flashAddress s.cfg p) vs rest) bufHalfwords fun j hj =>
    step_beforeDump h (lt_of_lt_of_eq hj hlen.symm) hj
  have hend : RunsTo 1 (beforeDump s (flashAddress s.cfg p) vs rest bufHalfwords)
      { flashDumped s (flashAddress s.cfg p) vs rest bufHalfwords with state := .idle } := by
    have h' : WorksOn (.dump p) s.wcr (flashDumped s (flashAddress s.cfg p) vs rest bufHalfwords) := { h with }
    rw [beforeDump, bytePos_done _ _ (Nat.lt_irrefl _)]
    exact h'.runsTo_release hq _
  rw [flashDumped_all s _ rest (k := bufHalfwords) hlen] at hend
  exact ((RunsTo.step hstart hloop).trans hend).run_eq

end Sys2Proof.Proofs

/-! PROOFS of the family `41_worker_crc32.md`, part 4: the save-flash and EEPROM commands. The two devices have the same
micro-steps at positions of their own: `ReadsSave` and `WritesSave` say so, and a run is proved once for both. -/

namespace Sys2Proof.Proofs

open Sys2Proof.Machine Sys2Proof.Laws

/-! ### The end of a save command (R182, R183, R188) -/

/-- What a save command leaves in `WCR`: the command on `Ok`, the status on an error. -/
def wcrAfterSave (w : Word) : SaveOutcome → Word
  | .ok => w
  | .error st => st

/-- How many steps completion takes: an error's status is written first. -/
theorem WorksOn.runsTo_afterSave {i : Instr} {cmd : Word} {s : State} (h : WorksOn i cmd s) (hq : s.seq = .idle)
    (o : SaveOutcome) (l : SeqLocals) :
    RunsTo (if o = .ok then 1 else 2) (afterSave o cmd l s) { s with state := .idle, wcr := wcrAfterSave s.wcr o } := by
  cases o with
  | ok => exact h.runsTo_release hq l
  | error st => exact h.runsTo_result hq st l

/-- The start, the transaction, `n` bytes and the end. -/
theorem save_steps (n : Nat) (o : SaveOutcome) :
    n + 2 + (if o = .ok then 1 else 2) = n + if o = .ok then 3 else 4 := by
  split <;> rfl

/-! ### READ_FLASH and READ_EEPROM (R182, R184) -/

/-- `i` reads `n` bytes from the device `kind` at the positions `at_`. -/
structure ReadsSave (kind : SaveKind) (i : Instr) (n : Param) (at_ : SaveReadPos → SeqPos) : Prop where
  isWorker : isWorkerCommand i = true
  start {s : State} : s.state = .workerBusy → s.seq = .idle → exec i s = startOperation (at_ .transfer) { n := n } s
  transfer {s : State} {cmd : Word} {l : SeqLocals} : s.state = .workerBusy → s.seq = .running cmd (at_ .transfer) l →
    exec i s = saveReadTransfer kind (at_ .transfer) (at_ .copy) cmd l s
  copy {s : State} {cmd : Word} {l : SeqLocals} : s.state = .workerBusy → s.seq = .running cmd (at_ .copy) l →
    exec i s = saveReadCopy (at_ .copy) cmd l s

theorem readsSave_readFlash (n : Param) : ReadsSave .flash (.readFlash n) n .readFlash where
  isWorker := rfl
  start := exec_readFlash_start n
  transfer := exec_readFlash_micro n
  copy := exec_readFlash_micro n

theorem readsSave_readEeprom (n : Param) : ReadsSave .eeprom (.readEeprom n) n .readEeprom where
  isWorker := rfl
  start := exec_readEeprom_start n
  transfer := exec_readEeprom_micro n
  copy := exec_readEeprom_micro n

/-- An answer that lists all the bytes is what arrives (R186). -/
theorem saveReadBytes_listed {n : Param} {ans : SaveReadAnswer} (s : State) (hlen : ans.bytes.length = n.toNat) :
    saveReadBytes n ans s = ans.bytes := by
  apply List.ext_getElem
  · rw [length_saveReadBytes, hlen, byteLength]
  · intro i _ hi
    simp [saveReadBytes, hi]

/-- Where a save read goes with the bytes that it still holds: to their copy, or to its end. -/
def copyRest (copy : SeqPos) (cmd : Word) (l : SeqLocals) (s : State) : State :=
  if l.bytes = [] then afterSave l.outcome cmd l s else s.toPos cmd copy l

theorem copyRest_toPos (copy : SeqPos) (cmd : Word) (l : SeqLocals) (s : State) (pos : SeqPos) (l' : SeqLocals) :
    copyRest copy cmd l (s.toPos cmd pos l') = copyRest copy cmd l s := by
  unfold copyRest
  cases l.outcome <;> rfl

/-- A transaction whose answer lists all the bytes. -/
theorem saveReadTransfer_listed {kind : SaveKind} {stay copy : SeqPos} {cmd : Word} {l : SeqLocals} {s : State}
    {ans : SaveReadAnswer} (hans : saveReadAnswer s = some ans) (hlen : ans.bytes.length = l.n.toNat) :
    saveReadTransfer kind stay copy cmd l s = .next (copyRest copy cmd { l with bytes := ans.bytes, outcome := ans.outcome }
      ((askSaveRead s).record (.saveRd kind l.n ans.bytes ans.outcome))) := by
  have hempty : (byteLength l.n = 0) = (ans.bytes = []) := by rw [← List.length_eq_zero_iff, hlen, byteLength]
  simp only [saveReadTransfer, hans, saveReadBytes_listed s hlen, hempty, copyRest]

theorem saveReadCopy_inside {copy : SeqPos} {cmd : Word} {l : SeqLocals} (s : State) {b : Byte} {bs : List Byte}
    (hb : l.bytes = b :: bs) (hi : l.i < bufBytes) :
    saveReadCopy copy cmd l s =
      .next (copyRest copy cmd { l with bytes := bs, i := l.i + 1 } (s.setBuf (setBuf8 s.buf l.i b))) := by
  rw [saveReadCopy, hb]
  exact storeBuf8_inside _ _ _ hi

theorem saveReadCopy_outside {copy : SeqPos} {cmd : Word} {l : SeqLocals} (s : State) (hb : l.bytes ≠ [])
    (hi : ¬ l.i < bufBytes) : saveReadCopy copy cmd l s = .fault (.bufferRange l.i (s.stopSeq l.i)) := by
  obtain ⟨b, bs, hb⟩ := List.exists_cons_of_ne_nil hb
  rw [saveReadCopy, hb]
  exact storeBuf8_outside _ _ _ hi

/-- The state once the transaction has ended and the first `i` of its bytes have been copied. -/
def saveCopied (s : State) (kind : SaveKind) (n : Param) (ans : SaveReadAnswer) (rest : List (Option SaveReadAnswer))
    (i : Nat) : State :=
  { s with
    buf := setBytes s.buf 0 (ans.bytes.take i), saveReads := rest, draws := s.draws + 1
    history := .saveRd kind n ans.bytes ans.outcome :: s.history }

/-- A save read before byte `i`, or at its end. -/
def beforeSaveCopy (s : State) (kind : SaveKind) (n : Param) (copy : SeqPos) (ans : SaveReadAnswer)
    (rest : List (Option SaveReadAnswer)) (i : Nat) : State :=
  copyRest copy s.wcr { n := n, i := i, bytes := ans.bytes.drop i, outcome := ans.outcome } (saveCopied s kind n ans rest i)

section SaveRead

variable {s : State} {kind : SaveKind} {instr : Instr} {n : Param} {at_ : SaveReadPos → SeqPos} {ans : SaveReadAnswer}
  {rest : List (Option SaveReadAnswer)} {i : Nat} (hr : ReadsSave kind instr n at_) (h : WorksOn instr s.wcr s)

theorem saveCopied_succ (hlen : i < ans.bytes.length) :
    (saveCopied s kind n ans rest i).setBuf (setBuf8 (saveCopied s kind n ans rest i).buf i ans.bytes[i]) =
      saveCopied s kind n ans rest (i + 1) := by
  simp only [saveCopied, State.setBuf, setBytes_take_succ _ hlen]

include hr h

theorem step_saveRead_transfer (hans : s.saveReads = some ans :: rest) (hlen : ans.bytes.length = n.toNat) :
    step (s.toPos s.wcr (at_ .transfer) { n := n }) = .next (beforeSaveCopy s kind n (at_ .copy) ans rest 0) := by
  have hnow : saveReadAnswer (s.toPos s.wcr (at_ .transfer) { n := n }) = some ans := by
    rw [saveReadAnswer, toPos_saveReads, hans]
  have hasked : (askSaveRead s).record (.saveRd kind n ans.bytes ans.outcome) = saveCopied s kind n ans rest 0 := by
    simp only [askSaveRead, State.record, hans, List.tail_cons, saveCopied, List.take_zero, setBytes]
  rw [h.step_micro hr.transfer, saveReadTransfer_listed hnow hlen, beforeSaveCopy, ← hasked]
  exact congrArg _ (copyRest_toPos _ _ _ ((askSaveRead s).record _) _ _)

/-- Before a byte of the answer the operation is at its copy. -/
theorem step_beforeSaveCopy_eq (hlen : i < ans.bytes.length) :
    step (beforeSaveCopy s kind n (at_ .copy) ans rest i) =
      saveReadCopy (at_ .copy) s.wcr { n := n, i := i, bytes := ans.bytes.drop i, outcome := ans.outcome }
        ((saveCopied s kind n ans rest i).toPos s.wcr (at_ .copy)
          { n := n, i := i, bytes := ans.bytes.drop i, outcome := ans.outcome }) := by
  have h' : WorksOn instr s.wcr (saveCopied s kind n ans rest i) := { h with }
  have hmore : ans.bytes.drop i ≠ [] := by rw [List.drop_eq_getElem_cons hlen]; nofun
  rw [beforeSaveCopy, copyRest, if_neg hmore]
  exact h'.step_micro hr.copy

theorem step_beforeSaveCopy (hlen : i < ans.bytes.length) (hi : i < bufBytes) :
    step (beforeSaveCopy s kind n (at_ .copy) ans rest i) = .next (beforeSaveCopy s kind n (at_ .copy) ans rest (i + 1)) := by
  rw [step_beforeSaveCopy_eq hr h hlen, saveReadCopy_inside _ (List.drop_eq_getElem_cons hlen) hi, beforeSaveCopy,
    ← saveCopied_succ hlen]
  exact congrArg _ (copyRest_toPos _ _ _ ((saveCopied s kind n ans rest i).setBuf _) _ _)

theorem step_beforeSaveCopy_fault (hlen : i < ans.bytes.length) (hi : ¬ i < bufBytes) :
    step (beforeSaveCopy s kind n (at_ .copy) ans rest i) = .fault (.bufferRange i { s with
      buf := setBytes s.buf 0 (ans.bytes.take i), saveReads := rest, draws := s.draws + 1
      history := .saveRd kind n ans.bytes ans.outcome :: s.history
      seq := .running s.wcr (at_ .copy) { n := n, i := i, bytes := ans.bytes.drop i, outcome := ans.outcome }
      seqFault := some i, faults := i :: s.faults }) := by
  have hmore : ans.bytes.drop i ≠ [] := by rw [List.drop_eq_getElem_cons hlen]; nofun
  rw [step_beforeSaveCopy_eq hr h hlen, saveReadCopy_outside _ hmore hi]
  rfl

omit hr in
/-- Once all the bytes are copied, completion (R132). -/
theorem runsTo_saveRead_end (hq : s.seq = .idle) {k : Nat} (hk : ans.bytes.length = k) :
    RunsTo (if ans.outcome = .ok then 1 else 2) (beforeSaveCopy s kind n (at_ .copy) ans rest k)
      { s with
        state := .idle, buf := setBytes s.buf 0 ans.bytes, saveReads := rest, draws := s.draws + 1
        wcr := wcrAfterSave s.wcr ans.outcome, history := .saveRd kind n ans.bytes ans.outcome :: s.history } := by
  have h' : WorksOn instr s.wcr (saveCopied s kind n ans rest k) := { h with }
  have hend := h'.runsTo_afterSave hq ans.outcome { n := n, i := k, bytes := ans.bytes.drop k, outcome := ans.outcome }
  have hall : ans.bytes.take k = ans.bytes := List.take_of_length_le hk.le
  rw [beforeSaveCopy, copyRest, if_pos (List.drop_of_length_le hk.le)]
  simp only [saveCopied, hall] at hend ⊢
  exact hend

end SaveRead

/-- Settles O38. -/
theorem saveReadRunFillsBuffer : Obligations.SaveReadRunFillsBuffer := by
  intro s n kind tag copy ans rest hc hw hq hf hin hkind hwcr hans hlen
  obtain ⟨instr, at_, hr, hword, rfl⟩ : ∃ instr at_, ReadsSave kind instr n at_ ∧ s.wcr = encode s.cfg instr ∧
      copy = at_ .copy := by
    obtain ⟨rfl, rfl, rfl⟩ | ⟨rfl, rfl, rfl⟩ := hkind
    · exact ⟨_, _, readsSave_readFlash n, hwcr, rfl⟩
    · exact ⟨_, _, readsSave_readEeprom n, hwcr, rfl⟩
  have h := worksOn_dispatched hr.isWorker hc hw hf hin hword
  have hstart : step s = .next (s.toPos s.wcr (at_ .transfer) { n := n }) := (h.start hq rfl).trans (hr.start hw hq)
  have hloop (k : Nat) (hk : k ≤ ans.bytes.length) (hb : k ≤ bufBytes) :
      RunsTo (k + 2) s (beforeSaveCopy s kind n (at_ .copy) ans rest k) :=
    .step hstart <| .step (step_saveRead_transfer hr h hans hlen) <|
      runsTo_loop k fun i hi => step_beforeSaveCopy hr h (by omega) (by omega)
  refine ⟨fun hn => ?_, fun hn => ?_⟩
  · have hrun := (hloop n.toNat hlen.ge hn).trans (runsTo_saveRead_end h hq hlen)
    rw [save_steps] at hrun
    exact hrun.run_eq
  · rw [← hlen] at hn
    exact (hloop bufBytes hn.le le_rfl).run_fault (step_beforeSaveCopy_fault hr h hn (Nat.lt_irrefl bufBytes))

/-! ### WRITE_FLASH and WRITE_EEPROM (R183, R185) -/

/-- `i` writes `n` bytes to the device `kind` at the positions `at_`. -/
structure WritesSave (kind : SaveKind) (i : Instr) (n : Param) (at_ : SaveWritePos → SeqPos) : Prop where
  isWorker : isWorkerCommand i = true
  start {s : State} : s.state = .workerBusy → s.seq = .idle →
    exec i s = startOperation (bytePos 0 (byteLength n) (at_ .gather) (at_ .transfer)) { n := n } s
  gather {s : State} {cmd : Word} {l : SeqLocals} : s.state = .workerBusy → s.seq = .running cmd (at_ .gather) l →
    exec i s = saveWriteGather (at_ .gather) (at_ .transfer) cmd l s
  transfer {s : State} {cmd : Word} {l : SeqLocals} : s.state = .workerBusy → s.seq = .running cmd (at_ .transfer) l →
    exec i s = saveWriteTransfer kind (at_ .transfer) cmd l s

theorem writesSave_writeFlash (n : Param) : WritesSave .flash (.writeFlash n) n .writeFlash where
  isWorker := rfl
  start := exec_writeFlash_start n
  gather := exec_writeFlash_micro n
  transfer := exec_writeFlash_micro n

theorem writesSave_writeEeprom (n : Param) : WritesSave .eeprom (.writeEeprom n) n .writeEeprom where
  isWorker := rfl
  start := exec_writeEeprom_start n
  gather := exec_writeEeprom_micro n
  transfer := exec_writeEeprom_micro n

/-- A save write once the first `i` bytes have been gathered. -/
def saveGathered (s : State) (n : Param) (at_ : SaveWritePos → SeqPos) (i : Nat) : State :=
  s.toPos s.wcr (bytePos i (byteLength n) (at_ .gather) (at_ .transfer))
    { n := n, i := i, bytes := bufferBytes s.buf i }

theorem afterSave_toPos (o : SaveOutcome) (cmd : Word) (l : SeqLocals) (s : State) (pos : SeqPos) (l' : SeqLocals) :
    afterSave o cmd l (s.toPos cmd pos l') = afterSave o cmd l s := by
  cases o <;> rfl

section SaveWrite

variable {s : State} {kind : SaveKind} {instr : Instr} {n : Param} {at_ : SaveWritePos → SeqPos} {i : Nat}
  (hr : WritesSave kind instr n at_) (h : WorksOn instr s.wcr s)

include hr h

theorem step_saveGathered (hn : i < byteLength n) (hi : i < bufBytes) :
    step (saveGathered s n at_ i) = .next (saveGathered s n at_ (i + 1)) := by
  rw [saveGathered, bytePos_more _ _ hn, h.step_micro hr.gather, saveWriteGather, loadBuf8_inside _ _ hi, saveGathered,
    bufferBytes_succ]
  rfl

theorem step_saveGathered_fault (hn : i < byteLength n) (hi : ¬ i < bufBytes) :
    step (saveGathered s n at_ i) = .fault (.bufferRange i { s with
      seq := .running s.wcr (at_ .gather) { n := n, i := i, bytes := bufferBytes s.buf i }
      seqFault := some i, faults := i :: s.faults }) := by
  rw [saveGathered, bytePos_more _ _ hn, h.step_micro hr.gather]
  exact loadBuf8_outside _ _ hi

/-- With all the bytes gathered, the transaction and completion (R132, R186). -/
theorem runsTo_saveWrite_end (hq : s.seq = .idle) {o : SaveOutcome} {rest : List (Option SaveOutcome)}
    (ho : s.saveWrites = some o :: rest) :
    RunsTo (1 + if o = .ok then 1 else 2) (saveGathered s n at_ (byteLength n)) { s with
      state := .idle, saveWrites := rest, draws := s.draws + 1, wcr := wcrAfterSave s.wcr o
      history := .saveWr kind n (bufferBytes s.buf (byteLength n)) o :: s.history } := by
  have h' : WorksOn instr s.wcr ((askSaveWrite s).record (.saveWr kind n (bufferBytes s.buf (byteLength n)) o)) :=
    { h with }
  have hnow (pos : SeqPos) (l : SeqLocals) : saveWriteAnswer (s.toPos s.wcr pos l) = some o := by
    rw [saveWriteAnswer, toPos_saveWrites, ho]
  have hend := h'.runsTo_afterSave hq o { n := n, i := byteLength n, bytes := bufferBytes s.buf (byteLength n), outcome := o }
  have hstep : step (saveGathered s n at_ (byteLength n)) = .next (afterSave o s.wcr
      { n := n, i := byteLength n, bytes := bufferBytes s.buf (byteLength n), outcome := o }
      ((askSaveWrite s).record (.saveWr kind n (bufferBytes s.buf (byteLength n)) o))) := by
    rw [saveGathered, bytePos_done _ _ (Nat.lt_irrefl _), h.step_micro hr.transfer, saveWriteTransfer, hnow]
    exact congrArg _ (afterSave_toPos o s.wcr _ ((askSaveWrite s).record _) _ _)
  have hrest : (askSaveWrite s).saveWrites = rest := by rw [askSaveWrite, ho, List.tail_cons]
  have hrun := (RunsTo.single hstep).trans hend
  rw [← hrest]
  exact hrun

end SaveWrite

/-- Settles O39. -/
theorem saveWriteRunSendsBuffer : Obligations.SaveWriteRunSendsBuffer := by
  intro s n kind tag gather hc hw hq hf hin hkind hwcr
  obtain ⟨instr, at_, hr, hword, rfl⟩ : ∃ instr at_, WritesSave kind instr n at_ ∧ s.wcr = encode s.cfg instr ∧
      gather = at_ .gather := by
    obtain ⟨rfl, rfl, rfl⟩ | ⟨rfl, rfl, rfl⟩ := hkind
    · exact ⟨_, _, writesSave_writeFlash n, hwcr, rfl⟩
    · exact ⟨_, _, writesSave_writeEeprom n, hwcr, rfl⟩
  have h := worksOn_dispatched hr.isWorker hc hw hf hin hword
  have hstart : step s = .next (saveGathered s n at_ 0) := (h.start hq rfl).trans (hr.start hw hq)
  have hloop (k : Nat) (hk : k ≤ byteLength n) (hb : k ≤ bufBytes) : RunsTo (k + 1) s (saveGathered s n at_ k) :=
    .step hstart <| runsTo_loop k fun i hi => step_saveGathered hr h (by omega) (by omega)
  refine ⟨fun o rest hn ho => ?_, fun hn => ?_⟩
  · have hrun := (hloop (byteLength n) le_rfl hn).trans (runsTo_saveWrite_end hr h hq ho)
    rw [← Nat.add_assoc, save_steps] at hrun
    exact hrun.run_eq
  · exact (hloop bufBytes hn.le le_rfl).run_fault (step_saveGathered_fault hr h hn (Nat.lt_irrefl bufBytes))

end Sys2Proof.Proofs

/-! PROOFS of the family `41_worker_crc32.md`, part 5: the flash operations ID, UNLOCK and ERASE. Each run is put together
from an equation per micro-step; a poll is an induction over the unready answers. -/

namespace Sys2Proof.Proofs

open Sys2Proof.Machine Sys2Proof.Laws

/-! ### Listed answers of the cartridge (R64, R151) -/

/-- A 16-bit read takes the answer in store. -/
theorem cartRead16_listed {s : State} {v : Halfword} {vs : List Halfword} (a : Word) (h : s.cart16 = v :: vs) :
    cartRead16 a s = { s with cart16 := vs, draws := s.draws + 1, history := .r16 a v :: s.history } := by
  rw [cartRead16, cartValue16_listed a s v vs h, h, List.tail_cons]

theorem statusReady_iff {c : Cfg} {v : Halfword} : statusReady c v = true ↔ (v &&& c.srReady) ≠ 0 := bne_iff_ne

/-- A listed status with the ready bit ends the poll. -/
theorem pollStatus_listed_ready {s : State} {v : Halfword} {vs : List Halfword} {a cmd : Word} {pos : SeqPos}
    {l : SeqLocals} (k : SeqLocals → State → Result) (h : s.cart16 = v :: vs) (hv : (v &&& s.cfg.srReady) ≠ 0) :
    pollStatus a cmd pos l s k = k { l with status := v }
      { s with cart16 := vs, draws := s.draws + 1, history := .r16 a v :: s.history } := by
  have hvalue := cartValue16_listed a s v vs h
  rw [pollStatus_ready k (hvalue.symm ▸ statusReady_iff.2 hv), hvalue, cartRead16_listed a h]

/-- A listed status without it leaves the poll where it is. -/
theorem pollStatus_listed_busy {s : State} {v : Halfword} {vs : List Halfword} {a cmd : Word} {pos : SeqPos}
    {l : SeqLocals} (k : SeqLocals → State → Result) (h : s.cart16 = v :: vs) (hv : (v &&& s.cfg.srReady) = 0) :
    pollStatus a cmd pos l s k = .next
      ({ s with cart16 := vs, draws := s.draws + 1, history := .r16 a v :: s.history }.toPos cmd pos
        { l with status := v }) := by
  have hvalue := cartValue16_listed a s v vs h
  have hbusy : statusReady s.cfg v = false := by rw [statusReady, hv]; rfl
  rw [pollStatus_busy k (hvalue.symm ▸ hbusy), hvalue, cartRead16_listed a h]

/-! ### ID (R152, R153) -/

/-- The last read; the log of a chip that is not the recognised one is no bus event (R153). -/
theorem idMicroStep_device (cmd : Word) (l : SeqLocals) (s : State) : ∃ logged, busEvents logged = [] ∧
    idMicroStep .device cmd l s =
      .next ({ cartRead16 (l.a + 2) s with history := logged ++ (cartRead16 (l.a + 2) s).history }.toResult cmd
        (l.code ++ cartValue16 (l.a + 2) s) l) := by
  by_cases hchip : chipUnsupported s.cfg (l.code ++ cartValue16 (l.a + 2) s) = true
  · refine ⟨[.diag (.unsupportedChip (l.code ++ cartValue16 (l.a + 2) s))], rfl, ?_⟩
    simp only [idMicroStep, if_pos hchip]
    rfl
  · refine ⟨[], rfl, ?_⟩
    simp only [idMicroStep, if_neg hchip]
    rfl

section Id

variable {s : State} {p : Param} {cmd : Word} {l : SeqLocals} (h : WorksOn (.id p) cmd s)

include h

theorem step_idCommand :
    step (s.toPos cmd (.id .command) l) =
      .next ((cartWrite16 l.a s.cfg.fcReadId s).toPos cmd (.id .manufacturer) l) :=
  h.step_micro (exec_id_micro p)

theorem step_idManufacturer :
    step (s.toPos cmd (.id .manufacturer) l) =
      .next ((cartRead16 l.a s).toPos cmd (.id .device) { l with code := cartValue16 l.a s }) :=
  h.step_micro (exec_id_micro p)

theorem step_idDevice : ∃ logged, busEvents logged = [] ∧
    step (s.toPos cmd (.id .device) l) =
      .next ({ cartRead16 (l.a + 2) s with history := logged ++ (cartRead16 (l.a + 2) s).history }.toResult cmd
        (l.code ++ cartValue16 (l.a + 2) s) l) := by
  obtain ⟨logged, hlogged, hmicro⟩ := idMicroStep_device cmd l (s.toPos cmd (.id .device) l)
  exact ⟨logged, hlogged, (h.step_micro (exec_id_micro p)).trans hmicro⟩

end Id

theorem busEvents_append (new old : List Event) : busEvents (new ++ old) = busEvents new ++ busEvents old :=
  List.filter_append new old

/-- The bus accesses of ID at the flash block `a` (R152). -/
def idAccesses (a : Word) (s : State) : State :=
  cartRead16 (a + 2) (cartRead16 a (cartWrite16 a s.cfg.fcReadId s))

/-- ID from its dispatch on, whatever the cartridge answers. -/
theorem runsTo_id {s : State} {p : Param} {a : Word} (h : WorksOn (.id p) s.wcr s) (hq : s.seq = .idle)
    (ha : flashAddress s.cfg p = a) : ∃ logged, busEvents logged = [] ∧ RunsTo 6 s { idAccesses a s with
      state := .idle, history := logged ++ (idAccesses a s).history
      wcr := cartValue16 a (cartWrite16 a s.cfg.fcReadId s) ++
        cartValue16 (a + 2) (cartRead16 a (cartWrite16 a s.cfg.fcReadId s)) } := by
  have hstart : step s = .next (s.toPos s.wcr (.id .command) { a := a }) :=
    ha ▸ (h.start hq rfl).trans (exec_id_start p h.state hq)
  have hwritten : WorksOn (.id p) s.wcr (cartWrite16 a s.cfg.fcReadId s) := { h with }
  have hread : WorksOn (.id p) s.wcr (cartRead16 a (cartWrite16 a s.cfg.fcReadId s)) := { h with }
  obtain ⟨logged, hlogged, hdevice⟩ := step_idDevice hread
    (l := { a := a, code := cartValue16 a (cartWrite16 a s.cfg.fcReadId s) })
  have hdone : WorksOn (.id p) s.wcr { idAccesses a s with history := logged ++ (idAccesses a s).history } := { h with }
  exact ⟨logged, hlogged, .step hstart <| .step (step_idCommand h) <| .step (step_idManufacturer hwritten) <|
    .step hdevice <| hdone.runsTo_result hq _ _⟩

/-- Settles O32. -/
theorem idRunGivesBothCodes : Obligations.IdRunGivesBothCodes := by
  intro s p m d rest a hc hw hq hf hin hwcr hcart ha
  have hm : cartValue16 a (cartWrite16 a s.cfg.fcReadId s) = m := cartValue16_listed a _ m (d :: rest) hcart
  have hd : cartValue16 (a + 2) (cartRead16 a (cartWrite16 a s.cfg.fcReadId s)) = d :=
    cartValue16_listed _ _ d rest (congrArg List.tail hcart)
  obtain ⟨logged, hlogged, hrun⟩ :=
    runsTo_id (worksOn_dispatched (i := .id p) rfl hc hw hf hin hwcr) hq ha.symm
  refine ⟨_, hrun.run_eq, rfl, hq, by rw [hm, hd], rfl, rfl, rfl, rfl, congrArg (·.tail.tail) hcart, ?_⟩
  rw [busEvents_append, hlogged, List.nil_append, ← hd, ← hm]
  rfl

/-! ### UNLOCK and ERASE (R151, R154, R155, R161) -/

section Poll

variable {i : Instr} {cmd : Word} {pos : SeqPos}
  (hpoll : ∀ {u : State} {l : SeqLocals}, u.state = .workerBusy → u.seq = .running cmd pos l →
    exec i u = statusPoll pos cmd l u)

include hpoll

/-- The poll reads the unready answers one a turn, and the ready one is the result (R151, R161). -/
theorem runsTo_statusPoll (busy : List Halfword) {s : State} {l : SeqLocals} {v : Halfword} {rest : List Halfword}
    (h : WorksOn i cmd s) (hcart : s.cart16 = busy ++ v :: rest) (hbusy : ∀ b ∈ busy, (b &&& s.cfg.srReady) = 0)
    (hv : (v &&& s.cfg.srReady) ≠ 0) :
    RunsTo (busy.length + 1) (s.toPos cmd pos l) ({ s with
      cart16 := rest, draws := s.draws + busy.length + 1
      history := Event.r16 l.a v :: (busy.reverse.map fun b => Event.r16 l.a b) ++ s.history }.toResult cmd (statusResult v)
        { l with status := v }) := by
  induction busy generalizing s l with
  | nil => exact .single ((h.step_micro hpoll).trans (pollStatus_listed_ready (s := s.toPos cmd pos l) _ hcart hv))
  | cons b busy ih =>
    have hb : (b &&& s.cfg.srReady) = 0 := hbusy b List.mem_cons_self
    have hstep := (h.step_micro hpoll).trans (pollStatus_listed_busy (s := s.toPos cmd pos l) _ hcart hb)
    have hrun := ih (s := { s with cart16 := busy ++ v :: rest, draws := s.draws + 1, history := .r16 l.a b :: s.history })
      (l := { l with status := b }) { h with } rfl (fun x hx => hbusy x (List.mem_cons_of_mem b hx)) hv
    have hdraws : s.draws + 1 + busy.length + 1 = s.draws + (b :: busy).length + 1 := by rw [List.length_cons]; omega
    have hhistory : Event.r16 l.a v :: (busy.reverse.map fun b => Event.r16 l.a b) ++ Event.r16 l.a b :: s.history =
        Event.r16 l.a v :: ((b :: busy).reverse.map fun b => Event.r16 l.a b) ++ s.history := by simp
    rw [← hdraws, ← hhistory]
    exact .step hstep hrun

end Poll

/-- `i` writes the word `code` and the confirm word to its flash block, and polls (R154, R155). -/
structure SetsFlash (i : Instr) (p : Param) (code : Cfg → Halfword) (at_ : LockPos → SeqPos) : Prop where
  isWorker : isWorkerCommand i = true
  start {s : State} : s.state = .workerBusy → s.seq = .idle →
    exec i s = startOperation (at_ .setup) (flashLocals s.cfg p) s
  setup {s : State} {cmd : Word} {l : SeqLocals} : s.state = .workerBusy → s.seq = .running cmd (at_ .setup) l →
    exec i s = .next ((cartWrite16 l.a (code s.cfg) s).toPos cmd (at_ .confirm) l)
  confirm {s : State} {cmd : Word} {l : SeqLocals} : s.state = .workerBusy → s.seq = .running cmd (at_ .confirm) l →
    exec i s = .next ((cartWrite16 l.a s.cfg.fcConfirm s).toPos cmd (at_ .poll) l)
  poll {s : State} {cmd : Word} {l : SeqLocals} : s.state = .workerBusy → s.seq = .running cmd (at_ .poll) l →
    exec i s = statusPoll (at_ .poll) cmd l s

theorem setsFlash_unlock (p : Param) : SetsFlash (.unlock p) p Cfg.fcClearLock .unlock where
  isWorker := rfl
  start := exec_unlock_start p
  setup := exec_unlock_micro p
  confirm := exec_unlock_micro p
  poll := exec_unlock_micro p

theorem setsFlash_erase (p : Param) : SetsFlash (.erase p) p Cfg.fcErase .erase where
  isWorker := rfl
  start := exec_erase_start p
  setup := exec_erase_micro p
  confirm := exec_erase_micro p
  poll := exec_erase_micro p

/-- Settles O33. -/
theorem unlockAndEraseRunGiveStatus : Obligations.UnlockAndEraseRunGiveStatus := by
  intro s p tag code busy v rest a hc hw hq hf hin hop hwcr ha hcart hbusy hv
  obtain ⟨instr, code, at_, hi, hword, rfl⟩ : ∃ instr code' at_, SetsFlash instr p code' at_ ∧
      s.wcr = encode s.cfg instr ∧ code = code' s.cfg := by
    obtain ⟨rfl, rfl⟩ | ⟨rfl, rfl⟩ := hop
    · exact ⟨_, _, _, setsFlash_unlock p, hwcr, rfl⟩
    · exact ⟨_, _, _, setsFlash_erase p, hwcr, rfl⟩
  have h := worksOn_dispatched hi.isWorker hc hw hf hin hword
  have hstart : step s = .next (s.toPos s.wcr (at_ .setup) { a := a }) :=
    ha ▸ (h.start hq rfl).trans (hi.start hw hq)
  have hset : WorksOn instr s.wcr (cartWrite16 a (code s.cfg) s) := { h with }
  have hconfirmed : WorksOn instr s.wcr (cartWrite16 a s.cfg.fcConfirm (cartWrite16 a (code s.cfg) s)) := { h with }
  have hsetup : step (s.toPos s.wcr (at_ .setup) { a := a }) =
      .next ((cartWrite16 a (code s.cfg) s).toPos s.wcr (at_ .confirm) { a := a }) := h.step_micro hi.setup
  have hconfirm : step ((cartWrite16 a (code s.cfg) s).toPos s.wcr (at_ .confirm) { a := a }) =
      .next ((cartWrite16 a s.cfg.fcConfirm (cartWrite16 a (code s.cfg) s)).toPos s.wcr (at_ .poll) { a := a }) :=
    hset.step_micro hi.confirm
  have hpolled := runsTo_statusPoll (l := { a := a }) hi.poll busy hconfirmed hcart hbusy hv
  have hend : WorksOn instr s.wcr { cartWrite16 a s.cfg.fcConfirm (cartWrite16 a (code s.cfg) s) with
    cart16 := rest, draws := s.draws + busy.length + 1
    history := Event.r16 a v :: (busy.reverse.map fun b => Event.r16 a b) ++
      .w16 a s.cfg.fcConfirm :: .w16 a (code s.cfg) :: s.history } := { h with }
  have hrun := RunsTo.step hstart <| .step hsetup <| .step hconfirm <|
    hpolled.trans (hend.runsTo_result hq (statusResult v) { a := a, status := v })
  exact hrun.run_eq

end Sys2Proof.Proofs

/-! PROOFS of the family `41_worker_crc32.md`, part 6: PROGRAM. One chunk with ready answers is `runsTo_chunk`; the chunks before
the last one that is written are an induction, `runsTo_chunks`. -/

namespace Sys2Proof.Proofs

open Sys2Proof.Machine Sys2Proof.Laws

/-! ### The data words of a chunk (R157) -/

/-- The writes of the first `j` data words of chunk `k` of the block at `a`, oldest first. -/
def dataWrites (c : Cfg) (m : Memory) (a : Word) (k j : Nat) : List Event :=
  (List.range j).map fun i => .w16 (halfwordAddress (chunkAddress c a k) i) (buf16 m (k * c.wbHalfwords + i))

theorem dataWrites_succ (c : Cfg) (m : Memory) (a : Word) (k j : Nat) :
    (dataWrites c m a k (j + 1)).reverse =
      .w16 (halfwordAddress (chunkAddress c a k) j) (buf16 m (k * c.wbHalfwords + j)) :: (dataWrites c m a k j).reverse := by
  rw [dataWrites, List.range_succ, List.map_append, List.map_singleton, List.reverse_concat, dataWrites]

/-- The state once the first `j` data words have been written. -/
def dataWritten (s : State) (a : Word) (k j : Nat) : State :=
  { s with history := (dataWrites s.cfg s.buf a k j).reverse ++ s.history }

theorem dataWritten_succ (s : State) (a : Word) (k j : Nat) :
    cartWrite16 (halfwordAddress (chunkAddress s.cfg a k) j) (buf16 s.buf (k * s.cfg.wbHalfwords + j))
      (dataWritten s a k j) = dataWritten s a k (j + 1) := by
  simp only [dataWritten, dataWrites_succ]
  rfl

/-- PROGRAM before data word `j` of its chunk. -/
def beforeDataWord (s : State) (cmd : Word) (l : SeqLocals) (j : Nat) : State :=
  (dataWritten s l.a l.k j).toPos cmd (.program (if j < s.cfg.wbHalfwords then .data else .confirm)) { l with j := j }

section Chunk

variable {s : State} {p : Param} {cmd : Word} {l : SeqLocals} (h : WorksOn (.program p) cmd s)

include h

theorem step_beforeDataWord {j : Nat} (hk : l.k < chunkCount s.cfg) (hj : j < s.cfg.wbHalfwords) :
    step (beforeDataWord s cmd l j) = .next (beforeDataWord s cmd l (j + 1)) := by
  have h' : WorksOn (.program p) cmd (dataWritten s l.a l.k j) := { h with }
  rw [beforeDataWord, if_pos hj, h'.step_micro (exec_program_micro p), programMicroStep]
  refine (loadBuf16_inside _ _ (chunk_halfword_lt hk hj)).trans ?_
  rw [beforeDataWord, ← dataWritten_succ]
  rfl

theorem step_programCommand :
    step (s.toPos cmd (.program .command) l) = .next
      ((cartWrite16 (chunkAddress s.cfg l.a l.k) s.cfg.fcWriteBuffer s).toPos cmd (.program .count) l) :=
  h.step_micro (exec_program_micro p)

theorem step_programCount (hw : 0 < s.cfg.wbHalfwords) :
    step (s.toPos cmd (.program .count) l) = .next (beforeDataWord
      (cartWrite16 (chunkAddress s.cfg l.a l.k) (BitVec.ofNat 16 (s.cfg.wbHalfwords - 1)) s) cmd l 0) := by
  rw [beforeDataWord, cartWrite16, State.record, if_pos hw]
  exact h.step_micro (exec_program_micro p)

theorem step_programConfirm :
    step (s.toPos cmd (.program .confirm) l) = .next
      ((cartWrite16 (chunkAddress s.cfg l.a l.k) s.cfg.fcConfirm s).toPos cmd (.program .verdict) l) :=
  h.step_micro (exec_program_micro p)

theorem step_programReady {v : Halfword} {vs : List Halfword} (hcart : s.cart16 = v :: vs)
    (hv : (v &&& s.cfg.srReady) ≠ 0) :
    step (s.toPos cmd (.program .ready) l) = .next
      ({ s with
        cart16 := vs, draws := s.draws + 1, history := .r16 (chunkAddress s.cfg l.a l.k) v :: s.history }.toPos cmd
          (.program .command) { l with status := v }) := by
  rw [h.step_micro (exec_program_micro p), programMicroStep]
  exact pollStatus_listed_ready (s := s.toPos cmd (.program .ready) l) _ hcart hv

theorem step_programVerdict {v : Halfword} {vs : List Halfword} (hcart : s.cart16 = v :: vs)
    (hv : (v &&& s.cfg.srReady) ≠ 0) :
    step (s.toPos cmd (.program .verdict) l) = programNext cmd { l with status := v }
      { s with
        cart16 := vs, draws := s.draws + 1, history := .r16 (chunkAddress s.cfg l.a l.k) v :: s.history } := by
  rw [h.step_micro (exec_program_micro p), programMicroStep]
  exact pollStatus_listed_ready (s := s.toPos cmd (.program .verdict) l) _ hcart hv

end Chunk

/-! ### One chunk (R157) -/

/-- The state once chunk `k` has been opened: its status read, its command and its count. -/
def chunkOpened (s : State) (a : Word) (k : Nat) (ready : Halfword) (rest : List Halfword) : State :=
  { s with
    cart16 := rest, draws := s.draws + 1
    history := .w16 (chunkAddress s.cfg a k) (BitVec.ofNat 16 (s.cfg.wbHalfwords - 1)) ::
      .w16 (chunkAddress s.cfg a k) s.cfg.fcWriteBuffer :: .r16 (chunkAddress s.cfg a k) ready :: s.history }

/-- The state once chunk `k` has been written, its two status reads answered with `ready` and `verdict`. -/
def chunkWritten (s : State) (a : Word) (k : Nat) (ready verdict : Halfword) (rest : List Halfword) : State :=
  { s with
    cart16 := rest, draws := s.draws + 2
    history := (chunkEvents s.cfg s.buf a k ready verdict).reverse ++ s.history }

theorem reverse_chunkEvents (c : Cfg) (m : Memory) (a : Word) (k : Nat) (ready verdict : Halfword) (old : List Event) :
    (chunkEvents c m a k ready verdict).reverse ++ old =
      .r16 (chunkAddress c a k) verdict :: .w16 (chunkAddress c a k) c.fcConfirm ::
        ((dataWrites c m a k c.wbHalfwords).reverse ++
          .w16 (chunkAddress c a k) (BitVec.ofNat 16 (c.wbHalfwords - 1)) :: .w16 (chunkAddress c a k) c.fcWriteBuffer ::
            .r16 (chunkAddress c a k) ready :: old) := by
  simp [chunkEvents, dataWrites]

section Chunk

variable {s : State} {p : Param} {cmd : Word} {l : SeqLocals} (h : WorksOn (.program p) cmd s) (hc : s.cfg.valid = true)

include h hc

theorem runsTo_chunkOpened {ready : Halfword} {rest : List Halfword} (hcart : s.cart16 = ready :: rest)
    (hready : (ready &&& s.cfg.srReady) ≠ 0) :
    RunsTo 3 (s.toPos cmd (.program .ready) l)
      (beforeDataWord (chunkOpened s l.a l.k ready rest) cmd { l with status := ready } 0) := by
  obtain ⟨hwb, -⟩ := chunk_size hc
  have hpolled : WorksOn (.program p) cmd { s with
    cart16 := rest, draws := s.draws + 1, history := .r16 (chunkAddress s.cfg l.a l.k) ready :: s.history } := { h with }
  have hcommanded : WorksOn (.program p) cmd { s with
    cart16 := rest, draws := s.draws + 1
    history := .w16 (chunkAddress s.cfg l.a l.k) s.cfg.fcWriteBuffer ::
      .r16 (chunkAddress s.cfg l.a l.k) ready :: s.history } := { h with }
  exact .step (step_programReady h hcart hready) <| .step (step_programCommand hpolled) <|
    .single (step_programCount (l := { l with status := ready }) hcommanded hwb)

omit hc in
/-- The data words and the confirm word. -/
theorem runsTo_chunkData (hk : l.k < chunkCount s.cfg) :
    RunsTo (s.cfg.wbHalfwords + 1) (beforeDataWord s cmd l 0)
      ((cartWrite16 (chunkAddress s.cfg l.a l.k) s.cfg.fcConfirm (dataWritten s l.a l.k s.cfg.wbHalfwords)).toPos cmd
        (.program .verdict) { l with j := s.cfg.wbHalfwords }) := by
  have hdata : WorksOn (.program p) cmd (dataWritten s l.a l.k s.cfg.wbHalfwords) := { h with }
  have hloop := runsTo_loop (before := beforeDataWord s cmd l) s.cfg.wbHalfwords fun j hj => step_beforeDataWord h hk hj
  have hlast : beforeDataWord s cmd l s.cfg.wbHalfwords = (dataWritten s l.a l.k s.cfg.wbHalfwords).toPos cmd
      (.program .confirm) { l with j := s.cfg.wbHalfwords } := by
    rw [beforeDataWord, if_neg (Nat.lt_irrefl _)]
  rw [hlast] at hloop
  exact hloop.trans (.single (step_programConfirm hdata))

/-- One chunk, whose two status reads are answered ready at once, up to its closing poll. -/
theorem runsTo_chunk {ready verdict : Halfword} {rest : List Halfword} (hk : l.k < chunkCount s.cfg)
    (hcart : s.cart16 = ready :: verdict :: rest) (hready : (ready &&& s.cfg.srReady) ≠ 0)
    (hverdict : (verdict &&& s.cfg.srReady) ≠ 0) :
    ∃ t, RunsTo (s.cfg.wbHalfwords + 4) (s.toPos cmd (.program .ready) l) t ∧
      step t = programNext cmd { l with j := s.cfg.wbHalfwords, status := verdict }
        (chunkWritten s l.a l.k ready verdict rest) := by
  have hopened : WorksOn (.program p) cmd (chunkOpened s l.a l.k ready (verdict :: rest)) := { h with }
  have hdata := runsTo_chunkData (l := { l with status := ready }) hopened hk
  have hconfirmed : WorksOn (.program p) cmd (cartWrite16 (chunkAddress s.cfg l.a l.k) s.cfg.fcConfirm
    (dataWritten (chunkOpened s l.a l.k ready (verdict :: rest)) l.a l.k s.cfg.wbHalfwords)) := { h with }
  have hrun := (runsTo_chunkOpened (l := l) h hc hcart hready).trans hdata
  have hclose := step_programVerdict (l := { l with j := s.cfg.wbHalfwords, status := ready }) hconfirmed (v := verdict)
    (vs := rest) rfl hverdict
  rw [Nat.add_comm] at hrun
  refine ⟨_, hrun, hclose.trans ?_⟩
  rw [chunkWritten, reverse_chunkEvents]
  rfl

end Chunk

/-! ### The chunks (R157, R159) -/

theorem programNext_end {cmd : Word} {l : SeqLocals} {s : State} (h : l.status ≠ s.cfg.srOk ∨ chunkCount s.cfg ≤ l.k + 1) :
    programNext cmd l s = .next (s.toResult cmd (statusResult l.status) l) := by
  rw [programNext, chunkFailed, if_pos (by rwa [bne_iff_ne])]

theorem programNext_more {cmd : Word} {l : SeqLocals} {s : State} (hok : l.status = s.cfg.srOk)
    (hk : l.k + 1 < chunkCount s.cfg) :
    programNext cmd l s = .next (s.toPos cmd (.program .ready) { l with k := l.k + 1, j := 0 }) := by
  rw [programNext, chunkFailed, hok, if_neg (by simpa using hk)]

/-- The events of `m` chunks from chunk `k` on, every status read answered with `SR_OK`, oldest first. -/
def okChunkEvents (c : Cfg) (m : Memory) (a : Word) (k count : Nat) : List Event :=
  (List.range' k count).flatMap fun i => chunkEvents c m a i c.srOk c.srOk

theorem reverse_okChunkEvents_succ (c : Cfg) (m : Memory) (a : Word) (k count : Nat) (old : List Event) :
    (okChunkEvents c m a k (count + 1)).reverse ++ old =
      (okChunkEvents c m a (k + 1) count).reverse ++ ((chunkEvents c m a k c.srOk c.srOk).reverse ++ old) := by
  rw [okChunkEvents, List.range'_succ, List.flatMap_cons, List.reverse_append, List.append_assoc, okChunkEvents]

/-- The state once `count` chunks from chunk `k` on have been written so. -/
def chunksWritten (s : State) (a : Word) (k count d : Nat) (rest : List Halfword) : State :=
  { s with
    cart16 := rest, draws := d, history := (okChunkEvents s.cfg s.buf a k count).reverse ++ s.history }

/-- Chunks that are neither failed nor the last are followed by the next. -/
theorem runsTo_chunks (count : Nat) {s : State} {p : Param} {cmd : Word} {l : SeqLocals} {rest : List Halfword}
    (h : WorksOn (.program p) cmd s) (hc : s.cfg.valid = true) (hk : l.k + count < chunkCount s.cfg)
    (hcart : s.cart16 = List.replicate (2 * count) s.cfg.srOk ++ rest) :
    ∃ d l', l'.a = l.a ∧ l'.k = l.k + count ∧
      RunsTo (count * (s.cfg.wbHalfwords + 5)) (s.toPos cmd (.program .ready) l)
        ((chunksWritten s l.a l.k count d rest).toPos cmd (.program .ready) l') := by
  induction count generalizing s l with
  | zero =>
    refine ⟨s.draws, l, rfl, rfl, ?_⟩
    obtain rfl : s.cart16 = rest := hcart
    rw [Nat.zero_mul]
    exact .refl _
  | succ count ih =>
    have hok := srOk_ready hc
    have hcart' : s.cart16 = s.cfg.srOk :: s.cfg.srOk :: (List.replicate (2 * count) s.cfg.srOk ++ rest) := hcart
    have hmore : l.k + 1 + count < chunkCount s.cfg := by omega
    have hnotLast : l.k + 1 < chunkCount s.cfg := by omega
    obtain ⟨t, hrun, hnext⟩ := runsTo_chunk (l := l) h hc (by omega) hcart' hok hok
    have hready := hnext.trans (programNext_more rfl hnotLast)
    obtain ⟨d, l', ha, hk', hrest⟩ :=
      ih (s := chunkWritten s l.a l.k s.cfg.srOk s.cfg.srOk (List.replicate (2 * count) s.cfg.srOk ++ rest))
        (l := { l with j := 0, status := s.cfg.srOk, k := l.k + 1 }) { h with } hc hmore rfl
    refine ⟨d, l', ha, hk'.trans (Nat.add_right_comm l.k 1 count), ?_⟩
    have hsteps : s.cfg.wbHalfwords + 4 + 1 + count * (s.cfg.wbHalfwords + 5) = (count + 1) * (s.cfg.wbHalfwords + 5) := by
      rw [Nat.succ_mul, Nat.add_comm]
    rw [chunksWritten, reverse_okChunkEvents_succ, ← hsteps]
    exact (hrun.trans (.single hready)).trans hrest

/-- Settles O40: the chunks before chunk `k`, then chunk `k`, at whose closing poll the operation ends. -/
theorem programRunWritesChunksInOrder : Obligations.ProgramRunWritesChunksInOrder := by
  intro s p k v rest a hc hw hq hf hin hwcr ha hk hv hlast hcart
  have h := worksOn_dispatched (i := .program p) rfl hc hw hf hin hwcr
  have hstart : step s = .next (s.toPos s.wcr (.program .ready) { a := a }) :=
    ha ▸ (h.start hq rfl).trans (exec_program_start p hw hq)
  rw [List.replicate_succ', List.append_assoc, List.singleton_append] at hcart
  obtain ⟨d, l, (hla : l.a = a), hlk, hchunks⟩ :=
    runsTo_chunks k (l := { a := a }) h hc (lt_of_eq_of_lt (Nat.zero_add k) hk) hcart
  rw [Nat.zero_add] at hlk
  have h' : WorksOn (.program p) s.wcr (chunksWritten s a 0 k d (s.cfg.srOk :: v :: rest)) := { h with }
  obtain ⟨t, hchunk, hnext⟩ := runsTo_chunk (l := l) h' hc (hlk.symm ▸ hk) rfl (srOk_ready hc) hv
  have hover : v ≠ s.cfg.srOk ∨ chunkCount s.cfg ≤ l.k + 1 := hlast.imp_right fun hk => (hlk ▸ hk).ge
  have hresult := hnext.trans (programNext_end hover)
  have hwritten : WorksOn (.program p) s.wcr
    (chunkWritten (chunksWritten s a 0 k d (s.cfg.srOk :: v :: rest)) l.a l.k s.cfg.srOk v rest) := { h with }
  have hrun := (((RunsTo.step hstart hchunks).trans hchunk).trans (.single hresult)).trans
    (hwritten.runsTo_result hq _ _)
  have hsteps : k * (s.cfg.wbHalfwords + 5) + 1 + (s.cfg.wbHalfwords + 4) + 1 + 2 =
      3 + (k + 1) * (s.cfg.wbHalfwords + 5) := by
    rw [Nat.succ_mul]
    omega
  refine ⟨_, (congrArg (core.run · s) hsteps).symm.trans hrun.run_eq, rfl, hq, rfl, rfl, rfl, rfl, ?_⟩
  rw [List.reverse_append, List.append_assoc, List.range_eq_range', hla, hlk]
  rfl

end Sys2Proof.Proofs

/-! PROOFS of the family `41_worker_crc32.md`, part 7: a sequencer that has stopped. The judgement `StopsAtAccess` says what a
faulting turn leaves; after it an exchange changes `TXD`'s record only, and a turn nothing. -/

namespace Sys2Proof.Proofs

open Sys2Proof.Machine Sys2Proof.Laws

/-! ### What a faulting turn leaves (R227, D7) -/

/-- `u` is `s`, or `s` after the one cartridge read that a copy makes before its access to the Buffer. -/
inductive ReadAtMostOnce (s : State) : State → Prop
  | no : ReadAtMostOnce s s
  | r8 (a : Word) : ReadAtMostOnce s (cartRead8 a s)
  | r16 (a : Word) : ReadAtMostOnce s (cartRead16 a s)

/-- Such a read moves the environment and the history, and the host receives nothing. -/
theorem ReadAtMostOnce.eq_with {s u : State} (h : ReadAtMostOnce s u) : ∃ c16 c8 d hist,
    u = { s with cart16 := c16, cart8 := c8, draws := d, history := hist } ∧
      receivedWords hist = receivedWords s.history := by
  cases h with
  | no => exact ⟨s.cart16, s.cart8, s.draws, s.history, rfl, rfl⟩
  | r8 a => exact ⟨s.cart16, s.cart8.tail, s.draws + 1, _, rfl, rfl⟩
  | r16 a => exact ⟨s.cart16.tail, s.cart8, s.draws + 1, _, rfl, rfl⟩

/-- The answer is a next state, or the fault at an access before which at most one read was made. -/
inductive StopsAtAccess (s : State) : Result → Prop
  | next (t : State) : StopsAtAccess s (.next t)
  | fault {u : State} (i : Nat) (hu : ReadAtMostOnce s u) : StopsAtAccess s (.fault (.bufferRange i (u.stopSeq i)))

theorem stopsAtAccess_next {s : State} {r : Result} (h : ∃ t, r = .next t) : StopsAtAccess s r := by
  obtain ⟨t, rfl⟩ := h
  exact .next t

section Shared

variable {s u : State}

theorem stopsAtAccess_loadBuf8 {i : Nat} {k : Byte → Result} (hk : ∀ b, ∃ t, k b = .next t) :
    StopsAtAccess s (loadBuf8 i s k) := by
  by_cases h : i < bufBytes
  · exact loadBuf8_inside s k h ▸ stopsAtAccess_next (hk _)
  · exact loadBuf8_outside s k h ▸ .fault i .no

theorem stopsAtAccess_loadBuf16 {i : Nat} {k : Halfword → Result} (hk : ∀ v, ∃ t, k v = .next t) :
    StopsAtAccess s (loadBuf16 i s k) := by
  by_cases h : i < bufHalfwords
  · exact loadBuf16_inside s k h ▸ stopsAtAccess_next (hk _)
  · exact loadBuf16_outside s k h ▸ .fault i .no

theorem stopsAtAccess_storeBuf8 {i : Nat} {v : Byte} {k : State → Result} (hu : ReadAtMostOnce s u)
    (hk : ∀ u', ∃ t, k u' = .next t) : StopsAtAccess s (storeBuf8 i v u k) := by
  by_cases h : i < bufBytes
  · exact storeBuf8_inside v u k h ▸ stopsAtAccess_next (hk _)
  · exact storeBuf8_outside v u k h ▸ .fault i hu

theorem stopsAtAccess_storeBuf16 {i : Nat} {v : Halfword} {k : State → Result} (hu : ReadAtMostOnce s u)
    (hk : ∀ u', ∃ t, k u' = .next t) : StopsAtAccess s (storeBuf16 i v u k) := by
  by_cases h : i < bufHalfwords
  · exact storeBuf16_inside v u k h ▸ stopsAtAccess_next (hk _)
  · exact storeBuf16_outside v u k h ▸ .fault i hu

theorem pollStatus_next {a cmd : Word} {pos : SeqPos} {l : SeqLocals} {k : SeqLocals → State → Result}
    (hk : ∀ l' u, ∃ t, k l' u = .next t) : ∃ t, pollStatus a cmd pos l s k = .next t := by
  unfold pollStatus
  split
  · exact hk _ _
  · exact ⟨_, rfl⟩

theorem statusPoll_next (pos : SeqPos) (cmd : Word) (l : SeqLocals) (s : State) :
    ∃ t, statusPoll pos cmd l s = .next t :=
  pollStatus_next fun _ _ => ⟨_, rfl⟩

theorem programNext_next (cmd : Word) (l : SeqLocals) (s : State) : ∃ t, programNext cmd l s = .next t := by
  unfold programNext
  split <;> exact ⟨_, rfl⟩

theorem saveReadTransfer_next (kind : SaveKind) (stay copy : SeqPos) (cmd : Word) (l : SeqLocals) (s : State) :
    ∃ t, saveReadTransfer kind stay copy cmd l s = .next t := by
  obtain ⟨-, h⟩ | ⟨ans, l', s', -, -, -, h⟩ := saveReadTransfer_cases kind stay copy cmd l s <;> exact ⟨_, h⟩

theorem saveWriteTransfer_next (kind : SaveKind) (stay : SeqPos) (cmd : Word) (l : SeqLocals) (s : State) :
    ∃ t, saveWriteTransfer kind stay cmd l s = .next t := by
  obtain ⟨-, h⟩ | ⟨o, -, h⟩ := saveWriteTransfer_cases kind stay cmd l s <;> exact ⟨_, h⟩

theorem stopsAtAccess_saveReadCopy (copy : SeqPos) (cmd : Word) (l : SeqLocals) (s : State) :
    StopsAtAccess s (saveReadCopy copy cmd l s) := by
  obtain ⟨-, h⟩ | ⟨b, rest, l', s', -, -, -, -, h⟩ | ⟨-, -, h⟩ := saveReadCopy_cases copy cmd l s <;> rw [h]
  · exact .next _
  · exact .next _
  · exact .fault l.i .no

end Shared

theorem stopsAtAccess_programMicroStep (p : ProgramPos) (cmd : Word) (l : SeqLocals) (s : State) :
    StopsAtAccess s (programMicroStep p cmd l s) := by
  cases p with
  | ready =>
    rw [programMicroStep]
    exact stopsAtAccess_next (pollStatus_next fun _ _ => ⟨_, rfl⟩)
  | command | count | confirm => exact .next _
  | data => exact stopsAtAccess_loadBuf16 fun _ => ⟨_, rfl⟩
  | verdict => exact stopsAtAccess_next (pollStatus_next fun l' u => programNext_next cmd l' u)

theorem stopsAtAccess_microStepAt (i : Instr) (cmd : Word) (pos : SeqPos) (l : SeqLocals) (s : State) :
    StopsAtAccess s (microStepAt i cmd pos l s) := by
  cases pos with
  | crcByte => exact stopsAtAccess_loadBuf8 fun _ => ⟨_, rfl⟩
  | id p => cases p <;> exact .next _
  | unlock p | erase p =>
    cases p with
    | setup | confirm => exact .next _
    | poll => exact stopsAtAccess_next (statusPoll_next _ cmd l s)
  | program p => exact stopsAtAccess_programMicroStep p cmd l s
  | dumpHalfword =>
    rw [microStepAt, dumpMicroStep]
    exact stopsAtAccess_storeBuf16 (.r16 _) fun _ => ⟨_, rfl⟩
  | readSramByte =>
    rw [microStepAt, readSramMicroStep]
    exact stopsAtAccess_storeBuf8 (.r8 _) fun _ => ⟨_, rfl⟩
  | writeSramByte => exact stopsAtAccess_loadBuf8 fun _ => ⟨_, rfl⟩
  | readFlash p | readEeprom p =>
    cases p with
    | transfer => exact stopsAtAccess_next (saveReadTransfer_next _ _ _ cmd l s)
    | copy => exact stopsAtAccess_saveReadCopy _ cmd l s
  | writeFlash p | writeEeprom p =>
    cases p with
    | gather => exact stopsAtAccess_loadBuf8 fun _ => ⟨_, rfl⟩
    | transfer => exact stopsAtAccess_next (saveWriteTransfer_next _ _ cmd l s)
  | logUnrecognised | writeResult | release => exact .next _

theorem stopsAtAccess_sequencerTurn {s : State} (hs : WorkerInv s) : StopsAtAccess s (sequencerTurn s) := by
  obtain ⟨hw, -, h⟩ | ⟨-, h⟩ := sequencerTurn_cases s
  · rw [h]
    cases hq : s.seq with
    | idle =>
      obtain ⟨acc, pos, l, hstart⟩ := exec_start (isSequencerInstr_decodeWorker s.cfg (latchedCommand s)) hw hq
      exact stopsAtAccess_next ⟨_, hstart⟩
    | running cmd pos l =>
      obtain ⟨-, hop, -⟩ := running_of_workerInv hs hq
      rw [sequencerInstr_running hq, exec_at_operation hw hq hop]
      exact stopsAtAccess_microStepAt _ cmd pos l s
  · exact h ▸ .next s

/-- A step that faults in `WorkerBusy` is a turn of the sequencer: only its stop and at most one read are left of it. -/
theorem fault_of_workerBusy {s t : State} {i : Nat} (hs : Inv s) (hw : s.state = .workerBusy)
    (h : step s = .fault (.bufferRange i t)) :
    ∃ rest u, ReadAtMostOnce (s.withInputs rest) u ∧ t = u.stopSeq i := by
  have hf := fsmFault_none_of_workerBusy hs hw
  obtain ⟨rx, rest, hin, -, -⟩ | ⟨rx, rest, j, -, hj, -⟩ | ⟨rest, -, hturn⟩ | ⟨rest, -, hreset⟩ := step_cases s
  · cases h.symm.trans (step_exchange_workerBusy hin hw hf)
  · cases hf.symm.trans hj
  · have hstop := stopsAtAccess_sequencerTurn (workerInv_of_inv (inv_withInputs hs rest))
    rw [← hturn, h] at hstop
    cases hstop with | fault _ hu => exact ⟨rest, _, hu, rfl⟩
  · cases h.symm.trans hreset

/-! ### The run after the stop (R111, U3) -/

theorem RunsTo.runOn_eq {k : Nat} {s t : State} (h : RunsTo k s t) : runOn k s = some t := by
  induction h with
  | refl s => rfl
  | step hs _ ih => rw [runOn_succ _ (stateAfter_next hs), ih]

/-- Exchanges and turns with a stopped sequencer: each exchange delivers `TXD`, which stays `BUSY_WORD`, and that is all. -/
theorem runsTo_stopped (moves : List Input) {t : State} {i : Nat} {rest : List Input}
    (hin : t.inputs = moves ++ rest) (hno : ∀ m ∈ moves, m ≠ .reset) (hw : t.state = .workerBusy)
    (hf : t.fsmFault = none) (hstop : t.seqFault = some i) (htxd : t.txd = t.cfg.busyWord) :
    ∃ h, RunsTo moves.length t { t with inputs := rest, history := h } ∧ busEvents h = busEvents t.history ∧
      receivedWords h = List.replicate (moves.countP Input.isExchange) t.txd ++ receivedWords t.history := by
  induction moves generalizing t with
  | nil =>
    obtain rfl : t.inputs = rest := hin
    exact ⟨t.history, .refl t, rfl, rfl⟩
  | cons m moves ih =>
    have hno' : ∀ m ∈ moves, m ≠ .reset := fun m hm => hno m (List.mem_cons_of_mem _ hm)
    cases m with
    | exchange rx =>
      have hstep := step_exchange_workerBusy hin hw hf
      rw [← htxd] at hstep
      obtain ⟨h, hrun, hbus, hrecv⟩ := ih (t := (takeExchange rx (t.withInputs (moves ++ rest))).emit t.txd)
        rfl hno' hw hf hstop htxd
      refine ⟨h, .step hstep hrun, hbus, hrecv.trans ?_⟩
      rw [List.countP_cons_of_pos rfl, List.replicate_succ', List.append_assoc]
      rfl
    | sequencer =>
      have hstep := (step_sequencer hin).trans (sequencerTurn_stopped (s := t.withInputs (moves ++ rest)) hstop)
      obtain ⟨h, hrun, hbus, hrecv⟩ := ih (t := t.withInputs (moves ++ rest)) rfl hno' hw hf hstop htxd
      exact ⟨h, .step hstep hrun, hbus, hrecv⟩
    | reset => exact absurd rfl (hno _ List.mem_cons_self)

/-- Settles O60. -/
theorem stoppedSequencerAnswersBusyForEver : Obligations.StoppedSequencerAnswersBusyForEver := by
  intro s t i moves rest hs hw htxd hfault hin hno
  obtain ⟨rest', u, hu, rfl⟩ := fault_of_workerBusy hs hw hfault
  obtain ⟨c16, c8, d, hist, rfl, hsame⟩ := hu.eq_with
  have hf := fsmFault_none_of_workerBusy hs hw
  obtain ⟨h, hrun, hbus, hrecv⟩ := runsTo_stopped moves hin hno hw hf rfl htxd
  refine ⟨_, (runOn_succ _ (stateAfter_fault hfault)).trans hrun.runOn_eq, hrun.run_eq, hw, rfl, rfl, rfl, htxd, rfl, rfl,
    rfl, hbus, ?_, fun hnil => (step_nil hnil).trans (sequencerTurn_stopped rfl), fun rest'' hreset =>
      ⟨_, step_reset hreset, rfl, rfl, rfl, rfl, rfl⟩⟩
  rw [← htxd]
  exact hrecv.trans (congrArg _ hsame)

end Sys2Proof.Proofs

/-! PROOFS of the family `42_flash_sequencer.md`, part 1: operations that wait. A status without the ready bit leaves a poll where
it is, and so does a try at a transaction that has not ended; both are an induction over the answers. -/

namespace Sys2Proof.Proofs

open Sys2Proof.Machine Sys2Proof.Laws

/-! ### An operation under way (R131, R133) -/

/-- A sequencer that is put where it stands is as it was. -/
theorem toPos_self {s : State} {cmd : Word} {pos : SeqPos} {l : SeqLocals} (hq : s.seq = .running cmd pos l) :
    s.toPos cmd pos l = s := by
  rw [State.toPos, ← hq]

/-- A worker command under way, read from the command word that the sequencer keeps. -/
theorem worksOn_command {s : State} {i : Instr} {cmd : Word} (hi : isWorkerCommand i = true) (hc : s.cfg.valid = true)
    (hw : s.state = .workerBusy) (hf : s.seqFault = none) (hin : s.inputs = []) (hcmd : cmd = encode s.cfg i) :
    WorksOn i cmd s where
  inputs := hin
  state := hw
  seqFault := hf
  decoded := hcmd ▸ decodeWorker_of_workerOp (workerOp_encode hc hi)

theorem WorksOn.step_running {i : Instr} {cmd : Word} {s : State} {pos : SeqPos} {l : SeqLocals} (h : WorksOn i cmd s)
    (hq : s.seq = .running cmd pos l) : Machine.step s = exec i s := by
  have hstep := h.step pos l
  rwa [toPos_self hq] at hstep

/-! ### A poll without the ready bit (R151, R225) -/

/-- At `pos` the instruction reads a status, and goes on only with the ready bit set. -/
def PollsAt (i : Instr) (cmd : Word) (pos : SeqPos) : Prop :=
  ∀ {s : State} {l : SeqLocals}, s.state = .workerBusy → s.seq = .running cmd pos l →
    ∃ a k, exec i s = pollStatus a cmd pos l s k

theorem SetsFlash.pollsAt {i : Instr} {p : Param} {code : Cfg → Halfword} {at_ : LockPos → SeqPos}
    (hi : SetsFlash i p code at_) (cmd : Word) : PollsAt i cmd (at_ .poll) :=
  fun hw hq => ⟨_, _, hi.poll hw hq⟩

theorem pollsAt_program_ready (p : Param) (cmd : Word) : PollsAt (.program p) cmd (.program .ready) :=
  fun hw hq => ⟨_, _, (exec_program_micro p hw hq).trans (by rw [programMicroStep])⟩

theorem pollsAt_program_verdict (p : Param) (cmd : Word) : PollsAt (.program p) cmd (.program .verdict) :=
  fun hw hq => ⟨_, _, exec_program_micro p hw hq⟩

section Poll

variable {i : Instr} {cmd : Word} {pos : SeqPos} (hpoll : PollsAt i cmd pos)

include hpoll

theorem step_unready {s : State} {l : SeqLocals} {b : Halfword} {vs : List Halfword} (h : WorksOn i cmd s)
    (hq : s.seq = .running cmd pos l) (hcart : s.cart16 = b :: vs) (hb : (b &&& s.cfg.srReady) = 0) :
    ∃ a, step s = .next { s with
      cart16 := vs, draws := s.draws + 1, history := .r16 a b :: s.history
      seq := .running cmd pos { l with status := b } } := by
  obtain ⟨a, k, hexec⟩ := hpoll h.state hq
  exact ⟨a, (h.step_running hq).trans (hexec.trans (pollStatus_listed_busy k hcart hb))⟩

/-- As many turns as there are answers without the ready bit. -/
theorem runsTo_unready (busy : List Halfword) {s : State} {l : SeqLocals} {rest : List Halfword} (h : WorksOn i cmd s)
    (hq : s.seq = .running cmd pos l) (hcart : s.cart16 = busy ++ rest)
    (hbusy : ∀ b ∈ busy, (b &&& s.cfg.srReady) = 0) :
    ∃ v d hist, RunsTo busy.length s { s with
      cart16 := rest, draws := d, history := hist, seq := .running cmd pos { l with status := v } } := by
  induction busy generalizing s l with
  | nil =>
    obtain rfl : s.cart16 = rest := hcart
    have hself : RunsTo 0 s (s.toPos cmd pos l) := (toPos_self hq).symm ▸ .refl s
    exact ⟨l.status, s.draws, s.history, hself⟩
  | cons b busy ih =>
    obtain ⟨a, hstep⟩ := step_unready hpoll h hq hcart (hbusy b List.mem_cons_self)
    obtain ⟨v, d, hist, hrun⟩ := ih (s := { s with
      cart16 := busy ++ rest, draws := s.draws + 1, history := .r16 a b :: s.history
      seq := .running cmd pos { l with status := b } }) { h with } rfl rfl fun x hx => hbusy x (List.mem_cons_of_mem b hx)
    exact ⟨v, d, hist, .step hstep hrun⟩

end Poll

/-! ### A transaction that has not ended (R186, R225) -/

/-- Turns that each use up one of the answers in store, with nothing else to show for it than the count of draws. -/
theorem runsTo_tries {α : Type} {before : List (Option α) → Nat → State}
    (htry : ∀ answers d, step (before (none :: answers) d) = .next (before answers (d + 1))) (m : Nat)
    (rest : List (Option α)) (d : Nat) : RunsTo m (before (List.replicate m none ++ rest) d) (before rest (d + m)) := by
  induction m generalizing d with
  | zero => exact .refl _
  | succ m ih =>
    have hrun := ih (d + 1)
    rw [Nat.add_right_comm] at hrun
    exact .step (htry _ d) hrun

section Tries

variable {s : State} {kind : SaveKind} {i : Instr} {n : Param} {cmd : Word} {l : SeqLocals}

theorem step_saveRead_waits {at_ : SaveReadPos → SeqPos} (hr : ReadsSave kind i n at_) (h : WorksOn i cmd s)
    (hq : s.seq = .running cmd (at_ .transfer) l) (answers : List (Option SaveReadAnswer)) (d : Nat) :
    step { s with saveReads := none :: answers, draws := d } =
      .next { s with saveReads := answers, draws := d + 1 } := by
  have h' : WorksOn i cmd { s with saveReads := none :: answers, draws := d } := { h with }
  rw [h'.step_running hq, hr.transfer h'.state hq]
  exact congrArg _ (toPos_self (s := { s with saveReads := answers, draws := d + 1 }) hq)

theorem runsTo_saveRead_waits {at_ : SaveReadPos → SeqPos} (hr : ReadsSave kind i n at_) (h : WorksOn i cmd s)
    (hq : s.seq = .running cmd (at_ .transfer) l) (m : Nat) {rest : List (Option SaveReadAnswer)}
    (hreads : s.saveReads = List.replicate m none ++ rest) :
    RunsTo m s { s with saveReads := rest, draws := s.draws + m } := by
  have hrun := runsTo_tries (before := fun answers d => { s with saveReads := answers, draws := d })
    (step_saveRead_waits hr h hq) m rest s.draws
  rwa [← hreads] at hrun

theorem step_saveWrite_waits {at_ : SaveWritePos → SeqPos} (hr : WritesSave kind i n at_) (h : WorksOn i cmd s)
    (hq : s.seq = .running cmd (at_ .transfer) l) (answers : List (Option SaveOutcome)) (d : Nat) :
    step { s with saveWrites := none :: answers, draws := d } =
      .next { s with saveWrites := answers, draws := d + 1 } := by
  have h' : WorksOn i cmd { s with saveWrites := none :: answers, draws := d } := { h with }
  rw [h'.step_running hq, hr.transfer h'.state hq]
  exact congrArg _ (toPos_self (s := { s with saveWrites := answers, draws := d + 1 }) hq)

theorem runsTo_saveWrite_waits {at_ : SaveWritePos → SeqPos} (hr : WritesSave kind i n at_) (h : WorksOn i cmd s)
    (hq : s.seq = .running cmd (at_ .transfer) l) (m : Nat) {rest : List (Option SaveOutcome)}
    (hwrites : s.saveWrites = List.replicate m none ++ rest) :
    RunsTo m s { s with saveWrites := rest, draws := s.draws + m } := by
  have hrun := runsTo_tries (before := fun answers d => { s with saveWrites := answers, draws := d })
    (step_saveWrite_waits hr h hq) m rest s.draws
  rwa [← hwrites] at hrun

end Tries

/-- Settles O34: the instruction at `pos` polls, or has a transaction there, and its answers are used up one a turn. -/
theorem unreadyPollNeverCompletes : Obligations.UnreadyPollNeverCompletes := by
  intro s p cmd pos l hc hw hf hin hq
  refine ⟨fun busy rest hop hcart hbusy => ?poll, fun m rest hop hreads => ?read, fun m rest hop hwrites => ?write⟩
  case poll =>
    obtain ⟨i, hi, hword, hpoll⟩ : ∃ i, isWorkerCommand i = true ∧ cmd = encode s.cfg i ∧ PollsAt i cmd pos := by
      obtain ⟨hcmd, rfl⟩ | ⟨hcmd, rfl⟩ | ⟨hcmd, rfl | rfl⟩ := hop
      · exact ⟨.unlock p, rfl, hcmd, (setsFlash_unlock p).pollsAt cmd⟩
      · exact ⟨.erase p, rfl, hcmd, (setsFlash_erase p).pollsAt cmd⟩
      · exact ⟨.program p, rfl, hcmd, pollsAt_program_ready p cmd⟩
      · exact ⟨.program p, rfl, hcmd, pollsAt_program_verdict p cmd⟩
    obtain ⟨v, d, hist, hrun⟩ := runsTo_unready hpoll busy (worksOn_command hi hc hw hf hin hword) hq hcart hbusy
    exact ⟨_, v, hrun.run_eq, hw, rfl, rfl, rfl, rfl, hf, rfl, rfl⟩
  case read =>
    obtain ⟨kind, i, at_, hr, hword, rfl⟩ : ∃ kind i at_, ReadsSave kind i p at_ ∧ cmd = encode s.cfg i ∧
        pos = at_ .transfer := by
      obtain ⟨hcmd, rfl⟩ | ⟨hcmd, rfl⟩ := hop
      · exact ⟨_, _, _, readsSave_readFlash p, hcmd, rfl⟩
      · exact ⟨_, _, _, readsSave_readEeprom p, hcmd, rfl⟩
    exact (runsTo_saveRead_waits hr (worksOn_command hr.isWorker hc hw hf hin hword) hq m hreads).run_eq
  case write =>
    obtain ⟨kind, i, at_, hr, hword, rfl⟩ : ∃ kind i at_, WritesSave kind i p at_ ∧ cmd = encode s.cfg i ∧
        pos = at_ .transfer := by
      obtain ⟨hcmd, rfl⟩ | ⟨hcmd, rfl⟩ := hop
      · exact ⟨_, _, _, writesSave_writeFlash p, hcmd, rfl⟩
      · exact ⟨_, _, _, writesSave_writeEeprom p, hcmd, rfl⟩
    exact (runsTo_saveWrite_waits hr (worksOn_command hr.isWorker hc hw hf hin hword) hq m hwrites).run_eq

end Sys2Proof.Proofs

/-! PROOFS of the family `42_flash_sequencer.md`, part 2: each micro-step of ID, UNLOCK, ERASE, PROGRAM and DUMP. -/

namespace Sys2Proof.Proofs

open Sys2Proof.Machine Sys2Proof.Laws

/-! ### ID (R152, R153) -/

theorem chipUnsupported_iff {c : Cfg} {code : Word} :
    chipUnsupported c code = true ↔ code ≠ c.idExpected.getD Config.idExpected := bne_iff_ne

/-- The last read with the events it leaves: its own, and the log of a chip that is not the recognised one. -/
theorem idMicroStep_device_history {cmd : Word} {l : SeqLocals} {s : State} {code : Word}
    (hcode : code = l.code ++ cartValue16 (l.a + 2) s) :
    idMicroStep .device cmd l s = .next ({ cartRead16 (l.a + 2) s with
      history := (if code ≠ s.cfg.idExpected.getD Config.idExpected then [Event.diag (.unsupportedChip code)] else []) ++
        (cartRead16 (l.a + 2) s).history }.toResult cmd code l) := by
  subst hcode
  by_cases hchip : chipUnsupported s.cfg (l.code ++ cartValue16 (l.a + 2) s) = true
  · rw [if_pos (chipUnsupported_iff.1 hchip), idMicroStep, if_pos hchip]
    rfl
  · rw [if_neg (mt chipUnsupported_iff.2 hchip), idMicroStep, if_neg hchip]
    rfl

/-- Settles O20. -/
theorem idMicroSteps : Obligations.IdMicroSteps := by
  intro s p cmd l hw
  refine ⟨fun hq => exec_id_micro p hw hq, fun hq => ⟨_, rfl, exec_id_micro p hw hq⟩, fun hq => ⟨_, _, rfl, rfl, ?_⟩⟩
  exact (exec_id_micro p hw hq).trans (idMicroStep_device_history rfl)

/-! ### UNLOCK and ERASE (R151, R154, R155, R161) -/

theorem statusReady_eq_false_iff {c : Cfg} {v : Halfword} : statusReady c v = false ↔ (v &&& c.srReady) = 0 := by
  rw [← Bool.not_eq_true, statusReady_iff, not_not]

/-- Settles O21: the two operations have their micro-steps in common, but for the first word. -/
theorem unlockAndEraseMicroSteps : Obligations.UnlockAndEraseMicroSteps := by
  intro s p cmd l hw
  have hunlock := setsFlash_unlock p
  have herase := setsFlash_erase p
  refine ⟨hunlock.setup hw, hunlock.confirm hw, herase.setup hw, herase.confirm hw, ?ready, ?busy⟩
  case ready =>
    rintro _ rfl hv
    have hready := statusReady_iff.2 hv
    exact ⟨fun hq => (hunlock.poll hw hq).trans (pollStatus_ready _ hready),
      fun hq => (herase.poll hw hq).trans (pollStatus_ready _ hready)⟩
  case busy =>
    rintro _ rfl hv
    have hbusy := statusReady_eq_false_iff.2 hv
    exact ⟨fun hq => (hunlock.poll hw hq).trans (pollStatus_busy _ hbusy),
      fun hq => (herase.poll hw hq).trans (pollStatus_busy _ hbusy)⟩

/-! ### PROGRAM (R151, R157, R159) -/

/-- `Ak` as R157 writes it. -/
theorem chunkAddress_eq (c : Cfg) (a : Word) (k : Nat) :
    chunkAddress c a k = a + BitVec.ofNat 32 (k * c.wbHalfwords * 2) := by
  rw [chunkAddress, halfwordAddress, Nat.mul_comm]

/-- Settles O22. -/
theorem programWritesOneChunk : Obligations.ProgramWritesOneChunk := by
  intro s p cmd l ak hw hak
  obtain rfl : ak = chunkAddress s.cfg l.a l.k := hak.trans (chunkAddress_eq s.cfg l.a l.k).symm
  refine ⟨exec_program_micro p hw, exec_program_micro p hw, fun hq hdata => ?_, exec_program_micro p hw⟩
  rw [exec_program_micro p hw hq, programMicroStep]
  exact loadBuf16_inside s _ hdata

/-- The opening poll: its status decides whether the chunk's command is next. -/
theorem programMicroStep_ready (cmd : Word) (l : SeqLocals) (s : State) {ak : Word}
    (hak : chunkAddress s.cfg l.a l.k = ak) :
    programMicroStep .ready cmd l s = .next ((cartRead16 ak s).toPos cmd
      (.program (if (cartValue16 ak s &&& s.cfg.srReady) ≠ 0 then .command else .ready))
      { l with status := cartValue16 ak s }) := by
  subst hak
  rw [programMicroStep]
  by_cases hready : (cartValue16 (chunkAddress s.cfg l.a l.k) s &&& s.cfg.srReady) ≠ 0
  · rw [if_pos hready, pollStatus_ready _ (statusReady_iff.2 hready)]
  · rw [if_neg hready, pollStatus_busy _ (statusReady_eq_false_iff.2 (not_not.1 hready))]

/-- The closing poll with its status ready: `programNext` says what follows. -/
theorem programMicroStep_verdict_ready (cmd : Word) (l : SeqLocals) (s : State) {ak : Word}
    (hak : chunkAddress s.cfg l.a l.k = ak) (hready : (cartValue16 ak s &&& s.cfg.srReady) ≠ 0) :
    programMicroStep .verdict cmd l s = programNext cmd { l with status := cartValue16 ak s } (cartRead16 ak s) := by
  subst hak
  exact pollStatus_ready _ (statusReady_iff.2 hready)

theorem programMicroStep_verdict_busy (cmd : Word) (l : SeqLocals) (s : State) {ak : Word}
    (hak : chunkAddress s.cfg l.a l.k = ak) (hbusy : (cartValue16 ak s &&& s.cfg.srReady) = 0) :
    programMicroStep .verdict cmd l s =
      .next ((cartRead16 ak s).toPos cmd (.program .verdict) { l with status := cartValue16 ak s }) := by
  subst hak
  exact pollStatus_busy _ (statusReady_eq_false_iff.2 hbusy)

/-- Settles O23. -/
theorem programPollsAndAborts : Obligations.ProgramPollsAndAborts := by
  rintro s p cmd l ak _ _ hw hak rfl rfl
  have hchunk : chunkAddress s.cfg l.a l.k = ak := (chunkAddress_eq s.cfg l.a l.k).trans hak.symm
  refine ⟨fun hq => ?ready, fun hq hbusy => ?stays, fun hq hready hend => ?ends, fun hq hready hok hmore => ?more⟩
  all_goals rw [exec_program_micro p hw hq]
  case ready => exact programMicroStep_ready cmd l s hchunk
  case stays => exact programMicroStep_verdict_busy cmd l s hchunk hbusy
  case ends => exact (programMicroStep_verdict_ready cmd l s hchunk hready).trans (programNext_end hend)
  case more => exact (programMicroStep_verdict_ready cmd l s hchunk hready).trans (programNext_more hok hmore)

/-! ### DUMP (R51, R53, R160) -/

/-- Settles O24. -/
theorem dumpCopiesOneHalfword : Obligations.DumpCopiesOneHalfword := by
  intro s p cmd l a v hw hq hj hm ha hv
  subst ha hv
  refine ⟨_, (exec_dump_micro p hw hq).trans (storeBuf16_inside _ _ _ hj), wf_setBuf16 _ hm hj,
    buf16_setBuf16_same _ hm hj, fun x hlow hhigh => read_setBuf16_beside _ hm hj ?_⟩
  omega

end Sys2Proof.Proofs

/-! PROOFS of the family `43_save_commands.md`: each micro-step of the SRAM and the save commands, and the sequencer's default
arm. The save flash and the EEPROM have their micro-steps in common, which `ReadsSave` and `WritesSave` say. -/

namespace Sys2Proof.Proofs

open Sys2Proof.Machine Sys2Proof.Laws

/-! ### READ_SRAM and WRITE_SRAM (R180, R181) -/

/-- Settles O25. -/
theorem readSramCopiesOneByte : Obligations.ReadSramCopiesOneByte := by
  intro s p cmd l a v hw hq hm ha hv
  subst ha hv
  rw [exec_readSram_micro p hw hq, readSramMicroStep]
  refine ⟨fun hi => ?inside, fun hi => ?past⟩
  case inside => exact ⟨_, storeBuf8_inside _ _ _ hi, wf_setBuf8 _ hm hi, fun x => read_setBuf8 l.i x _ hm⟩
  case past => exact storeBuf8_outside _ _ _ (Nat.not_lt.2 hi)

/-- Settles O26. -/
theorem writeSramWritesOneByte : Obligations.WriteSramWritesOneByte := by
  intro s p cmd l hw hq
  rw [exec_writeSram_micro p hw hq, writeSramMicroStep]
  refine ⟨fun hi => ?inside, fun hi => ?past⟩
  case inside => exact loadBuf8_inside s _ hi
  case past => exact loadBuf8_outside s _ (Nat.not_lt.2 hi)

/-! ### READ_FLASH and READ_EEPROM (R182, R184, R186) -/

/-- A save read asks for no byte exactly at length 0. -/
theorem saveReadBytes_eq_nil_iff {n : Param} {ans : SaveReadAnswer} {s : State} : saveReadBytes n ans s = [] ↔ n = 0 := by
  rw [← List.length_eq_zero_iff, length_saveReadBytes, BitVec.toNat_eq]
  rfl

/-- A transaction that has ended, whatever its answer lists. -/
theorem saveReadTransfer_ended {kind : SaveKind} {stay copy : SeqPos} {cmd : Word} {l : SeqLocals} {s : State}
    {ans : SaveReadAnswer} (hans : saveReadAnswer s = some ans) :
    saveReadTransfer kind stay copy cmd l s =
      .next (copyRest copy cmd { l with bytes := saveReadBytes l.n ans s, outcome := ans.outcome }
        ((askSaveRead s).record (.saveRd kind l.n (saveReadBytes l.n ans s) ans.outcome))) := by
  have hempty : (byteLength l.n = 0) = (saveReadBytes l.n ans s = []) := by
    rw [← List.length_eq_zero_iff, length_saveReadBytes]
  simp only [saveReadTransfer, hans, hempty, copyRest]

/-- After its transaction a save operation has the error's status as its result, and on `Ok` no result (R182, R188). -/
theorem afterSave_eq_toPos (o : SaveOutcome) (cmd : Word) (l : SeqLocals) (s : State) :
    ∃ pos r, afterSave o cmd l s = s.toPos cmd pos { l with result := r } ∧
      (o = .ok → pos = .release ∧ r = l.result) ∧ (∀ st, o = .error st → pos = .writeResult ∧ r = st) := by
  cases o with
  | ok => exact ⟨.release, l.result, rfl, fun _ => ⟨rfl, rfl⟩, nofun⟩
  | error st => exact ⟨.writeResult, st, rfl, nofun, fun _ h => ⟨rfl, SaveOutcome.error.inj h⟩⟩

/-- With bytes still to copy a save read is at its copy, and without it is at its end. -/
theorem copyRest_eq_toPos (copy : SeqPos) (cmd : Word) (l : SeqLocals) (s : State) :
    ∃ pos r, copyRest copy cmd l s = s.toPos cmd pos { l with result := r } ∧
      (l.bytes ≠ [] → pos = copy ∧ r = l.result) ∧
      (l.bytes = [] → l.outcome = .ok → pos = .release ∧ r = l.result) ∧
      (∀ st, l.bytes = [] → l.outcome = .error st → pos = .writeResult ∧ r = st) := by
  by_cases hb : l.bytes = []
  · obtain ⟨pos, r, hnext, hok, herror⟩ := afterSave_eq_toPos l.outcome cmd l s
    exact ⟨pos, r, (if_pos hb).trans hnext, (absurd hb ·), fun _ => hok, fun st _ => herror st⟩
  · exact ⟨copy, l.result, if_neg hb, fun _ => ⟨rfl, rfl⟩, (absurd · hb), fun _ h => absurd h hb⟩

/-- Settles O27. -/
theorem saveReadTransaction : Obligations.SaveReadTransaction := by
  intro s p cmd l kind i at_ hw hkind hq
  have hr : ReadsSave kind i p at_ := by
    obtain ⟨rfl, rfl, rfl⟩ | ⟨rfl, rfl, rfl⟩ := hkind
    · exact readsSave_readFlash p
    · exact readsSave_readEeprom p
  rw [hr.transfer hw hq]
  refine ⟨fun hwait => ?waits, fun ans bs hans hbs => ?ends⟩
  case waits =>
    rw [saveReadTransfer, hwait]
    exact congrArg _ (toPos_self (s := askSaveRead s) hq)
  case ends =>
    subst hbs
    rw [saveReadTransfer_ended hans]
    obtain ⟨pos, r, hnext, hmore, hok, herror⟩ := copyRest_eq_toPos (at_ .copy) cmd
      { l with bytes := saveReadBytes l.n ans s, outcome := ans.outcome }
      ((askSaveRead s).record (.saveRd kind l.n (saveReadBytes l.n ans s) ans.outcome))
    simp only [ne_eq, saveReadBytes_eq_nil_iff] at hmore hok herror
    exact ⟨pos, r, congrArg _ hnext, length_saveReadBytes _ _ _, hmore, hok, herror⟩

/-- Settles O28. -/
theorem saveReadCopiesOneByte : Obligations.SaveReadCopiesOneByte := by
  intro s p cmd l i at_ b rest hw hkind hq hb hm
  obtain ⟨kind, hr⟩ : ∃ kind, ReadsSave kind i p at_ := by
    obtain ⟨rfl, rfl⟩ | ⟨rfl, rfl⟩ := hkind
    · exact ⟨_, readsSave_readFlash p⟩
    · exact ⟨_, readsSave_readEeprom p⟩
  rw [hr.copy hw hq]
  refine ⟨fun hi => ?inside, fun hi => ?past⟩
  case inside =>
    rw [saveReadCopy_inside s hb hi]
    obtain ⟨pos, r, hnext, hends⟩ := copyRest_eq_toPos (at_ .copy) cmd { l with bytes := rest, i := l.i + 1 }
      (s.setBuf (setBuf8 s.buf l.i b))
    exact ⟨_, pos, r, congrArg _ hnext, wf_setBuf8 b hm hi, fun x => read_setBuf8 l.i x b hm, hends⟩
  case past => exact saveReadCopy_outside s (hb ▸ List.cons_ne_nil b rest) (Nat.not_lt.2 hi)

/-! ### WRITE_FLASH and WRITE_EEPROM (R183, R185, R186) -/

/-- A transaction that has ended with the outcome `o`. -/
theorem saveWriteTransfer_ended {kind : SaveKind} {stay : SeqPos} {cmd : Word} {l : SeqLocals} {s : State} {o : SaveOutcome}
    (ho : saveWriteAnswer s = some o) :
    saveWriteTransfer kind stay cmd l s =
      .next (afterSave o cmd { l with outcome := o } ((askSaveWrite s).record (.saveWr kind l.n l.bytes o))) := by
  rw [saveWriteTransfer, ho]

/-- Settles O29. -/
theorem saveWriteMicroSteps : Obligations.SaveWriteMicroSteps := by
  intro s p cmd l kind i at_ hw hkind
  have hr : WritesSave kind i p at_ := by
    obtain ⟨rfl, rfl, rfl⟩ | ⟨rfl, rfl, rfl⟩ := hkind
    · exact writesSave_writeFlash p
    · exact writesSave_writeEeprom p
  refine ⟨fun hq hi => ?gathers, fun hq hi => ?past, fun hq hwait => ?waits, fun hq hok => ?ok, fun st hq herror => ?error⟩
  case gathers =>
    rw [hr.gather hw hq, saveWriteGather, apply_ite at_]
    exact loadBuf8_inside s _ hi
  case past => exact (hr.gather hw hq).trans (loadBuf8_outside s _ (Nat.not_lt.2 hi))
  case waits =>
    rw [hr.transfer hw hq, saveWriteTransfer, hwait]
    exact congrArg _ (toPos_self (s := askSaveWrite s) hq)
  case ok => exact (hr.transfer hw hq).trans (saveWriteTransfer_ended hok)
  case error => exact (hr.transfer hw hq).trans (saveWriteTransfer_ended herror)

/-! ### The default arm (R187) -/

/-- The default arm completes as every operation does, whatever `STATE` is. -/
theorem exec_unrecognisedWorker_release {s : State} {cmd : Word} {l : SeqLocals} (t : Byte) (p : Param)
    (hq : s.seq = .running cmd .release l) : exec (.unrecognisedWorker t p) s = .next s.releaseSeq := by
  simp only [exec, execUnrecognisedWorker, hq, completeOperation]

/-- Settles O30: no micro-step of the default arm touches `WCR`. -/
theorem unrecognisedCommandIsLoggedAndReleased : Obligations.UnrecognisedCommandIsLoggedAndReleased := by
  intro s t p cmd l
  refine ⟨fun ht => ?decode, exec_unrecognisedWorker_start t p, exec_unrecognisedWorker_micro t p,
    exec_unrecognisedWorker_release t p⟩
  have hword : wordTag (commandWord t p) ∉ s.cfg.workerTags := by
    rwa [wordTag_commandWord, ← List.contains_iff_mem, Bool.not_eq_true]
  rw [decodeWorker_of_not_mem hword, wordTag_commandWord, wordParam_commandWord]

end Sys2Proof.Proofs

/-! PROOFS of the family `60_exceptions.md`: where a fault comes from and what it leaves. An exchange faults as `FsmMove`
says. A turn faults in a micro-step of a byte-length command: `MicroMove` gives the index and the length, and what is left
is the state before the access, with the sequencer stopped in it (`microStepAt_fault`). -/

namespace Sys2Proof.Proofs

open Sys2Proof.Machine Sys2Proof.Laws

/-! ### A fault of the FSM (R108, R109, R227) -/

/-- An exchange faults in a transfer that has reached word 32768 and whose count goes on; only the stop is left of it. -/
theorem fault_of_exchange {rx : Word} {u t : State} {i : Nat} (hu : Inv u)
    (h : exec (incomingInstr rx u) u = .fault (.bufferRange i t)) :
    (u.state = .uploading ∨ u.state = .downloading) ∧ i = 32768 ∧ u.off = 32768 ∧ 32768 < u.len.toNat ∧
      t = u.stopFsm 32768 := by
  have hm := fsmMove rx u
  rw [h] at hm
  cases hm with
  | faults hs hlt hout =>
    have hoff : u.off.toNat = 32768 := Nat.le_antisymm hu.offInBuffer (Nat.le_of_not_lt hout)
    have hlen : u.off.toNat < u.len.toNat := hlt
    exact ⟨hs, hoff, BitVec.eq_of_toNat_eq hoff, hoff ▸ hlen, hoff ▸ rfl⟩

/-! ### A fault of a micro-step: the state before the access, with the sequencer stopped in it (D7) -/

section Access

variable {s t : State} {i j : Nat}

theorem ne_fault_of_next {r : Result} {f : Fault} (h : ∃ u, r = .next u) : r ≠ .fault f := by
  obtain ⟨u, rfl⟩ := h
  nofun

theorem loadBuf8_fault {k : Byte → Result} (hk : ∀ b, ∃ u, k b = .next u)
    (h : loadBuf8 i s k = .fault (.bufferRange j t)) : t = s.stopSeq j := by
  by_cases hi : i < bufBytes
  · exact absurd ((loadBuf8_inside s k hi).symm.trans h) (ne_fault_of_next (hk _))
  · cases (loadBuf8_outside s k hi).symm.trans h
    rfl

theorem saveReadCopy_fault {copy : SeqPos} {cmd : Word} {l : SeqLocals}
    (h : saveReadCopy copy cmd l s = .fault (.bufferRange j t)) : t = s.stopSeq j := by
  obtain ⟨-, hr⟩ | ⟨b, rest, l', s', -, -, -, -, hr⟩ | ⟨-, -, hr⟩ := saveReadCopy_cases copy cmd l s <;>
    cases hr.symm.trans h
  rfl

/-- READ_SRAM has read the cartridge when the store faults (R180, R227). -/
theorem readSramMicroStep_fault {cmd : Word} {l : SeqLocals} (h : readSramMicroStep cmd l s = .fault (.bufferRange j t)) :
    t = (cartRead8 (sramAddress s.cfg j) s).stopSeq j := by
  rw [readSramMicroStep] at h
  by_cases hi : l.i < bufBytes
  · cases (storeBuf8_inside _ _ _ hi).symm.trans h
  · cases (storeBuf8_outside _ _ _ hi).symm.trans h
    rfl

end Access

/-- What the micro-step of a byte-length command has done before its access to Buffer byte `j`: the cartridge read of
READ_SRAM, and nothing in any other. -/
def beforeAccess (i : Instr) (j : Nat) (s : State) : State :=
  match i with
  | .readSram _ => cartRead8 (sramAddress s.cfg j) s
  | _ => s

theorem beforeAccess_of_ne_readSram {i : Instr} (h : ∀ n, i ≠ .readSram n) (j : Nat) (s : State) :
    beforeAccess i j s = s := by
  cases i with
  | readSram n => exact absurd rfl (h n)
  | _ => rfl

theorem beforeAccess_readSram (n : Param) (j : Nat) (s : State) :
    beforeAccess (.readSram n) j s = cartRead8 (sramAddress s.cfg j) s := rfl

/-- Only a byte-length command has a length past the Buffer, so a flash command does not stand at such a fault: PROGRAM's
and DUMP's indexes stay inside (R157, R160). -/
theorem microStepAt_fault {i : Instr} {cmd : Word} {pos : SeqPos} {l : SeqLocals} {s t : State} {j : Nat}
    (hop : operationAt s.cfg i pos l = true) (hend : bufBytes < byteLengthOf i)
    (h : microStepAt i cmd pos l s = .fault (.bufferRange j t)) : t = (beforeAccess i j s).stopSeq j := by
  have hlong : ∀ {i'}, i = i' → byteLengthOf i' ≠ 0 := fun hi => hi ▸ Nat.ne_zero_of_lt hend
  cases pos with
  | crcByte =>
    rw [(operationAt_crcByte.1 hop).1]
    exact loadBuf8_fault (fun _ => ⟨_, rfl⟩) h
  | readSramByte =>
    rw [(operationAt_readSramByte.1 hop).1]
    exact readSramMicroStep_fault h
  | writeSramByte =>
    rw [(operationAt_writeSramByte.1 hop).1]
    exact loadBuf8_fault (fun _ => ⟨_, rfl⟩) h
  | readFlash q =>
    rw [(operationAt_readFlash.1 hop).1]
    cases q with
    | transfer => exact absurd h (ne_fault_of_next (saveReadTransfer_next _ _ _ cmd l s))
    | copy => exact saveReadCopy_fault h
  | readEeprom q =>
    rw [(operationAt_readEeprom.1 hop).1]
    cases q with
    | transfer => exact absurd h (ne_fault_of_next (saveReadTransfer_next _ _ _ cmd l s))
    | copy => exact saveReadCopy_fault h
  | writeFlash q =>
    rw [(operationAt_writeFlash.1 hop).1]
    cases q with
    | transfer => exact absurd h (ne_fault_of_next (saveWriteTransfer_next _ _ cmd l s))
    | gather => exact loadBuf8_fault (fun _ => ⟨_, rfl⟩) h
  | writeEeprom q =>
    rw [(operationAt_writeEeprom.1 hop).1]
    cases q with
    | transfer => exact absurd h (ne_fault_of_next (saveWriteTransfer_next _ _ cmd l s))
    | gather => exact loadBuf8_fault (fun _ => ⟨_, rfl⟩) h
  | id q => exact absurd rfl (hlong (operationAt_id.1 hop).1)
  | unlock q => exact absurd rfl (hlong (operationAt_unlock.1 hop).1)
  | erase q => exact absurd rfl (hlong (operationAt_erase.1 hop).1)
  | program q => exact absurd rfl (hlong (operationAt_program.1 hop).1.1)
  | dumpHalfword => exact absurd rfl (hlong (operationAt_dumpHalfword.1 hop).1.1)
  | logUnrecognised | writeResult | release => cases h

/-! ### A fault of the sequencer's turn -/

/-- A micro-step faults at the first byte past the Buffer, and the length of its command goes on there (R227). -/
theorem end_of_microStepAt_fault {i : Instr} {cmd : Word} {pos : SeqPos} {l : SeqLocals} {s t : State} {j : Nat}
    (hc : s.cfg.valid = true) (hop : operationAt s.cfg i pos l = true)
    (h : microStepAt i cmd pos l s = .fault (.bufferRange j t)) : j = bufBytes ∧ bufBytes < byteLengthOf i := by
  have hm := microMove_microStepAt i cmd pos l s (by rintro rfl; cases h) (by rintro rfl; cases h)
  rw [h] at hm
  cases hm with | fault _ hj => exact hj hc hop

/-- A turn faults at byte 131072 of a longer byte-length command; only the stop is left of it, and READ_SRAM's read. -/
theorem fault_of_turn {s t : State} {j : Nat} (hs : Inv s) (h : sequencerTurn s = .fault (.bufferRange j t)) :
    s.seqFault = none ∧ j = 131072 ∧ s.state = .workerBusy ∧ 131072 < byteLengthOf (sequencerInstr s) ∧
      t = (beforeAccess (sequencerInstr s) 131072 s).stopSeq 131072 := by
  obtain ⟨hw, hf, hturn⟩ | ⟨-, hrest⟩ := sequencerTurn_cases s
  · rw [hturn] at h
    cases hq : s.seq with
    | idle =>
      obtain ⟨acc, pos, l, hstart⟩ := exec_start (isSequencerInstr_decodeWorker s.cfg (latchedCommand s)) hw hq
      cases hstart.symm.trans h
    | running cmd pos l =>
      obtain ⟨-, hop, -⟩ := running_of_workerInv (workerInv_of_inv hs) hq
      rw [← sequencerInstr_running hq] at hop
      rw [exec_at_operation hw hq hop] at h
      obtain ⟨rfl, hend⟩ := end_of_microStepAt_fault hs.cfgValid hop h
      exact ⟨hf, rfl, hw, hend, microStepAt_fault hop hend h⟩
  · cases hrest.symm.trans h

/-- Settles O48: an exchange, one with a stopped FSM and a turn fault each in its own way, and the reset event does not. -/
theorem faultOnlyAtTheEndOfTheBuffer : Obligations.FaultOnlyAtTheEndOfTheBuffer := by
  refine ⟨fun s t i hs h => ?_, fun s rx rest i hin hf => (step_exchange hin).trans (exchange_stopped rx hf)⟩
  obtain ⟨rx, rest, hin, hf, hr⟩ | ⟨rx, rest, j, hin, hf, hr⟩ | ⟨rest, hin, hr⟩ | ⟨rest, -, hr⟩ := step_cases s
  case inl =>
    have hu := inv_takeExchange (inv_withInputs hs rest) rx
    obtain ⟨hst, hi, hoff, hlen, ht⟩ := fault_of_exchange hu (hr.symm.trans h)
    exact .inl ⟨rx, rest, hin, hf, hi, hst, hoff, hlen, ht⟩
  case inr.inl =>
    cases hr.symm.trans h
    exact .inr (.inl ⟨rx, rest, hin, hf, rfl⟩)
  case inr.inr.inl =>
    obtain ⟨hf, hi, hw, hlen, rfl⟩ := fault_of_turn (inv_withInputs hs rest) (hr.symm.trans h)
    have hinstr : sequencerInstr (s.withInputs rest) = sequencerInstr s := rfl
    rw [hinstr] at hlen ⊢
    refine .inr (.inr ⟨rest, hin, hf, hi, hw, hlen, fun hno => ?_, fun n a v hread ha hv => ?_⟩)
    · rw [beforeAccess_of_ne_readSram hno]
      rfl
    · have haddr : sramAddress s.cfg 131072 = a := ha.symm
      rw [hread, beforeAccess_readSram, withInputs_cfg, haddr, hv]
      rfl
  case inr.inr.inr => cases hr.symm.trans h

end Sys2Proof.Proofs

/-! PROOFS of the family `70_reset_and_hazards.md`: what reset leaves. The one fact that is not a field update is the Buffer:
`Memory.ofBytes` is canonical and reads back the function it was made from. -/

namespace Sys2Proof.Proofs

open Sys2Proof.Machine Sys2Proof.Laws

/-! ### The Buffer after a reset (R250, U6) -/

theorem wf_resetEvent_buf (s : State) : Memory.wf (resetEvent s).buf = true := by
  rw [resetEvent_buf]
  exact wf_ofBytes _

theorem read_resetEvent_buf (s : State) {a : Nat} (ha : a < bufBytes) :
    Memory.read (resetEvent s).buf a = Config.resetByte s.draws a := by
  rw [resetEvent_buf]
  exact read_ofBytes _ ha

/-- Settles O43. A reset in the list of moves always completes, as `resetEvent` (`step_reset`); the registers then stand at
its updates, and the Buffer at the bytes drawn. -/
theorem resetEventFromAnyState : Obligations.ResetEventFromAnyState := by
  refine ⟨⟨rfl, rfl, rfl, rfl⟩, fun s rest hin => ⟨resetEvent (s.withInputs rest), step_reset hin, ?_⟩⟩
  have hwf : Memory.wf (resetEvent (s.withInputs rest)).buf = true := wf_resetEvent_buf _
  have hread : ∀ a < 131072, Memory.read (resetEvent (s.withInputs rest)).buf a = Config.resetByte s.draws a :=
    fun _ ha => read_resetEvent_buf (s.withInputs rest) ha
  exact ⟨rfl, rfl, rfl, rfl, rfl, rfl, rfl, rfl, hwf, hread, rfl, rfl, rfl, rfl⟩

end Sys2Proof.Proofs
